-- ==== Sys2Proof/Word.lean ====
section
/-! DEFINITION. The value types of the core (00_scope.md R5, R11): every value is unsigned. -/

namespace Sys2Proof

/-- `u8` (R11). -/
abbrev Byte := BitVec 8

/-- `u16` (R11): an opcode, `PC`, `I`, a stack entry. -/
abbrev Word := BitVec 16

/-- The `n` field of an opcode and its primary selector (R47). -/
abbrev Nibble := BitVec 4

/-- The 12-bit address immediate `nnn` (R47). -/
abbrev Imm12 := BitVec 12

/-- A general register's number, 0 to 15 (R13); also a keypad slot's number (R23). -/
abbrev Reg := Fin 16

end Sys2Proof
end

