-- ==== Sys2Proof/Syntax.lean ====
section
/-! DEFINITION. The 35 instructions of the core, one constructor for each row of opcode_table.json
(30_encoding.md R50). A constructor holds the fields the instruction uses and no others: the bits a
row ignores (R55) are dropped by the decoder. -/

namespace Sys2Proof

/-- The instructions, in the opcode map's order (R50). -/
inductive Instr where
  /-- `0nnn` with `kk` neither 0xE0 nor 0xEE: legacy call (R71). -/
  | sys (nnn : Imm12)
  /-- `0nE0`: clear display (R69). -/
  | cls
  /-- `0nEE`: return from subroutine (R72). -/
  | ret
  /-- `1nnn`: jump (R73). -/
  | jp (nnn : Imm12)
  /-- `2nnn`: call subroutine (R74). -/
  | call (nnn : Imm12)
  /-- `3xkk`: skip if equal to an immediate (R75). -/
  | seImm (x : Reg) (kk : Byte)
  /-- `4xkk`: skip if not equal to an immediate (R76). -/
  | sneImm (x : Reg) (kk : Byte)
  /-- `5xyN`: skip if the registers are equal (R77). -/
  | seReg (x y : Reg)
  /-- `6xkk`: load immediate (R81). -/
  | ldImm (x : Reg) (kk : Byte)
  /-- `7xkk`: add immediate, no flag (R82). -/
  | addImm (x : Reg) (kk : Byte)
  /-- `8xy0`: assign (R83). -/
  | ldReg (x y : Reg)
  /-- `8xy1`: OR (R84). -/
  | orReg (x y : Reg)
  /-- `8xy2`: AND (R85). -/
  | andReg (x y : Reg)
  /-- `8xy3`: XOR (R86). -/
  | xorReg (x y : Reg)
  /-- `8xy4`: add with carry into VF (R87). -/
  | addReg (x y : Reg)
  /-- `8xy5`: subtract Vx - Vy (R88). -/
  | subReg (x y : Reg)
  /-- `8xy6`: shift right; the y field is ignored (R89). -/
  | shr (x : Reg)
  /-- `8xy7`: subtract Vy - Vx (R90). -/
  | subn (x y : Reg)
  /-- `8xyE`: shift left; the y field is ignored (R91). -/
  | shl (x : Reg)
  /-- `9xyN`: skip if the registers are not equal (R78). -/
  | sneReg (x y : Reg)
  /-- `Annn`: set the index register (R99). -/
  | ldI (nnn : Imm12)
  /-- `Bnnn`: jump with offset V0 (R79). -/
  | jpV0 (nnn : Imm12)
  /-- `Cxkk`: random AND mask (R92). -/
  | rnd (x : Reg) (kk : Byte)
  /-- `Dxyn`: draw sprite (R70). -/
  | drw (x y : Reg) (n : Nibble)
  /-- `Ex9E`: skip if the key is pressed (R93). -/
  | skp (x : Reg)
  /-- `ExA1`: skip if the key is not pressed (R94). -/
  | sknp (x : Reg)
  /-- `Fx07`: read the delay timer (R95). -/
  | ldVxDt (x : Reg)
  /-- `Fx0A`: wait for a key (R96). -/
  | ldVxK (x : Reg)
  /-- `Fx15`: set the delay timer (R97). -/
  | ldDtVx (x : Reg)
  /-- `Fx18`: set the sound timer (R98). -/
  | ldStVx (x : Reg)
  /-- `Fx1E`: add to the index register (R100). -/
  | addI (x : Reg)
  /-- `Fx29`: point I at a font glyph (R101). -/
  | ldF (x : Reg)
  /-- `Fx33`: store the BCD digits (R102). -/
  | ldB (x : Reg)
  /-- `Fx55`: store registers V0 to Vx (R103). -/
  | storeRegs (x : Reg)
  /-- `Fx65`: load registers V0 to Vx (R104). -/
  | loadRegs (x : Reg)
deriving DecidableEq, Repr

end Sys2Proof
end

