-- ==== Sys2Proof/WellFormed.lean ====
section
/-! DEFINITION. Well-formed instructions. The operand types admit only what the fields can hold
(30_encoding.md R47); what is left to check is that a `SYS` word is not the word of `CLS` or `RET`
(R51). -/

namespace Sys2Proof

/-- An op-0 word's low byte selects `SYS` when it is neither 0xE0 nor 0xEE (R51). -/
def sysLowByteFree (nnn : Imm12) : Bool :=
  nnn.toNat % 256 != 0xE0 && nnn.toNat % 256 != 0xEE

/-- The instruction has an encoding of its own (R50, R51). -/
def Instr.wf : Instr → Bool
  | .sys nnn => sysLowByteFree nnn
  | .cls => true
  | .ret => true
  | .jp _ => true
  | .call _ => true
  | .seImm _ _ => true
  | .sneImm _ _ => true
  | .seReg _ _ => true
  | .ldImm _ _ => true
  | .addImm _ _ => true
  | .ldReg _ _ => true
  | .orReg _ _ => true
  | .andReg _ _ => true
  | .xorReg _ _ => true
  | .addReg _ _ => true
  | .subReg _ _ => true
  | .shr _ => true
  | .subn _ _ => true
  | .shl _ => true
  | .sneReg _ _ => true
  | .ldI _ => true
  | .jpV0 _ => true
  | .rnd _ _ => true
  | .drw _ _ _ => true
  | .skp _ => true
  | .sknp _ => true
  | .ldVxDt _ => true
  | .ldVxK _ => true
  | .ldDtVx _ => true
  | .ldStVx _ => true
  | .addI _ => true
  | .ldF _ => true
  | .ldB _ => true
  | .storeRegs _ => true
  | .loadRegs _ => true

end Sys2Proof
end

