-- ==== Sys2Proof/Config.lean ====
section
/-! DEFINITION. What an implementation fixes (00_scope.md R5, R6) and the free values. The fixed
constants of R5 are not parameters (R4). -/

namespace Sys2Proof

/-- `LEGACY_SYS_POLICY` (R6): what an op-0 word other than CLS and RET does. -/
inductive Config.SysPolicy where
  /-- the word raises `UnsupportedSys` -/
  | fault
  /-- the word is a no-op -/
  | nop
deriving DecidableEq, Repr

/-- `DRAW_ROW_POLICY` (R6): what `DRW` does with sprite rows below row 31. -/
inductive Config.RowPolicy where
  /-- the draw raises `DrawRowOverflow` -/
  | fault
  /-- such rows are neither written nor checked for collision -/
  | clip
  /-- such rows wrap modulo 32 -/
  | wrap
deriving DecidableEq, Repr

/-- `PC_ALIGN_CHECK`: an odd PC faults at fetch (R6, D11; log 6). -/
def Config.pcAlignCheck : Bool := true

/-- `LEGACY_SYS_POLICY`, the spec's value (R6, D9; log 6). -/
def Config.legacySysPolicy : Config.SysPolicy := .fault

/-- `DRAW_ROW_POLICY`, the spec's value (R6, D17; log 6). -/
def Config.drawRowPolicy : Config.RowPolicy := .fault

/-- Number of memory bytes (R5). -/
def Config.memSize : Nat := 0x1000

/-- Font base address (R5). -/
def Config.fontBase : Nat := 0x050

/-- Program load address and reset PC (R5). -/
def Config.programBase : Nat := 0x200

/-- `FONT_TABLE` (R125): glyph 0 is the source's; glyphs 1 to F are the standard CHIP-8 font, which
the spec takes from general knowledge (D25). PRESUMED, log 7, unsafe. -/
def Config.fontTable : List Byte :=
  [0xF0, 0x90, 0x90, 0x90, 0xF0] ++ [0x20, 0x60, 0x20, 0x20, 0x70] ++
  [0xF0, 0x10, 0xF0, 0x80, 0xF0] ++ [0xF0, 0x10, 0xF0, 0x10, 0xF0] ++
  [0x90, 0x90, 0xF0, 0x10, 0x10] ++ [0xF0, 0x80, 0xF0, 0x10, 0xF0] ++
  [0xF0, 0x80, 0xF0, 0x90, 0xF0] ++ [0xF0, 0x10, 0x20, 0x40, 0x40] ++
  [0xF0, 0x90, 0xF0, 0x90, 0xF0] ++ [0xF0, 0x90, 0xF0, 0x10, 0xF0] ++
  [0xF0, 0x90, 0xF0, 0x90, 0x90] ++ [0xE0, 0x90, 0xE0, 0x90, 0xE0] ++
  [0xF0, 0x80, 0x80, 0x80, 0xF0] ++ [0xE0, 0x90, 0x90, 0x90, 0xE0] ++
  [0xF0, 0x80, 0xF0, 0x80, 0xF0] ++ [0xF0, 0x80, 0xF0, 0x80, 0x80]

/-- `RandomByte` (R6, R28, R92): the byte of the draw with this number. A free value: no body, so any
byte sequence is admitted. DESIGN CHOICE in form, log 3, safe. One sequence serves every state, so two
instances (R119) with equal `draws` draw the same byte: DESIGN CHOICE, log 34, unsafe where two are compared. -/
opaque Config.randomByte : Nat → Byte

/-- `KeyChoice` (R6, R65): which of several pressed keys the draw with this number picks, taken
modulo their count. A free value: no body. DESIGN CHOICE in form, log 4, safe. One sequence serves every
state, so two instances (R119) with equal `draws` choose alike: DESIGN CHOICE, log 34, unsafe where two are
compared. -/
opaque Config.keyChoice : Nat → Nat

end Sys2Proof
end

