-- ==== Sys2Proof/Machine/State.lean ====
section
/-! DEFINITION. The state of the core (10_state.md R13–R29, 20_memory.md R30), all of it, and reset
(70_reset_and_hazards.md R123). -/

namespace Sys2Proof.Machine

/-- The fault kinds (R106), each with the info its row records beyond the PC and the word, which the
record itself holds (log 27). -/
inductive FaultKind where
  /-- code 1: fetch at an odd PC -/
  | misalignedPc
  /-- code 2: fetch with PC + 1 above 0xFFF -/
  | fetchOutOfBounds
  /-- code 3: an op-0 word other than CLS and RET -/
  | unsupportedSys
  /-- code 4: a word of families 8, E or F that selects no instruction -/
  | illegalOpcode
  /-- code 5: `CALL` with SP = 16 -/
  | stackOverflow
  /-- code 6: `RET` with SP = 0 -/
  | stackUnderflow
  /-- code 7: a data access past 0xFFF; the last address of the range -/
  | memOutOfBounds (last : Nat)
  /-- code 8: `DRW` past row 31; the last row -/
  | drawRowOverflow (row : Nat)
  /-- code 9: `SKP` or `SKNP` with V[x] above 15; V[x] -/
  | keyIndexOutOfRange (index : Byte)
deriving DecidableEq, Repr

/-- The fault record's content (R27, R108). -/
structure FaultRecord where
  /-- what failed -/
  kind : FaultKind
  /-- the address of the step that faulted -/
  pc : Word
  /-- the word fetched; none when the fetch itself faulted -/
  opcode : Option Word
deriving DecidableEq, Repr

/-- The framebuffer, row by row: `FB[r][c]` is `fb[r][c]` (R24). -/
abbrev Framebuffer := Vector (Vector Bool 64) 32

/-- The listed bytes of memory: addresses strictly rising, no entry equal to what an unlisted address
reads as (log 14). -/
abbrev Memory := List Host.Cell

/-- The modelled state (R29), and the model's own count of free draws. -/
structure State where
  /-- `V[0..15]` (R13) -/
  v : Vector Byte 16
  /-- `PC` (R16) -/
  pc : Word
  /-- `I` (R18) -/
  index : Word
  /-- `Stack[0..15]` (R19) -/
  stack : Vector Word 16
  /-- `SP`, 0 to 16 (R20; log 31) -/
  sp : Fin 17
  /-- `DT` (R21) -/
  dt : Byte
  /-- `ST` (R22) -/
  st : Byte
  /-- `Key[0..15]` (R23) -/
  key : Vector Bool 16
  /-- `FB` (R24) -/
  fb : Framebuffer
  /-- `Mem` (R30) -/
  mem : Memory
  /-- `Opcode` (R25; log 16) -/
  opcode : Word
  /-- `AwaitingKey` (R26) -/
  awaitingKey : Bool
  /-- `AwaitReg` (R26) -/
  awaitReg : Reg
  /-- `Fault` (R27) -/
  fault : Option FaultRecord
  /-- The model's own: how many free draws were made (log 5). -/
  draws : Nat
deriving DecidableEq, Repr

/-- Why a step stops without a next state. -/
inductive Fault where
  /-- Raised by `step` alone, on a core whose fault record is already set: `Step()` reports the recorded
  fault and changes nothing (R67). Safe: the core is stuck, no later state exists to speak of (log 2). -/
  | faulted (record : FaultRecord)
deriving DecidableEq, Repr

/-- Why an instruction has no meaning. -/
inductive Refusal where
  /-- The instruction's arm is not written yet. Raised by no arm of this model. Safe. -/
  | notModelled (mnemonic : String)
deriving DecidableEq, Repr

/-- The machine right after `Construct()` (R123). Memory lists nothing: an unlisted address reads as its
reset content, the font or 0. The fields the source names no value for are the spec's decision D24
(log 13, unsafe); `draws` is a DESIGN CHOICE (log 5). -/
def State.reset : State where
  v := Vector.replicate 16 0
  pc := 0x200
  index := 0
  stack := Vector.replicate 16 0
  sp := 0
  dt := 0
  st := 0
  key := Vector.replicate 16 false
  fb := Vector.replicate 32 (Vector.replicate 64 false)
  mem := []
  opcode := 0
  awaitingKey := false
  awaitReg := 0
  fault := none
  draws := 0

end Sys2Proof.Machine
end

