-- ==== Sys2Proof/Machine/Ops.lean ====
section
/-! DEFINITION. The named operations over memory, registers, stack, framebuffer and the fault record
(00_scope.md R12, 20_memory.md R30–R46, 40_dispatch.md R59–R65, 60_exceptions.md R105–R111). Every
access of a meaning goes through one of them. -/

namespace Sys2Proof.Machine

/-- What a meaning answers. -/
abbrev Result := Host.Outcome State Fault Refusal

/-! ### Memory (R30, R38) -/

/-- What an address reads as while nothing is written there: its content after `Construct()`, the font
at 0x050–0x09F and 0 elsewhere (R123, R124; log 14). -/
def initialByte (a : Nat) : Byte :=
  if Config.fontBase ≤ a then Config.fontTable.getD (a - Config.fontBase) 0 else 0

/-- `Mem[a]`, read (R12). -/
def Memory.read (m : Memory) (a : Nat) : Byte :=
  match m with
  | [] => initialByte a
  | c :: rest => if c.1 = a then c.2 else Memory.read rest a

/-- Insert a cell in address order. -/
def Memory.insertCell (m : Memory) (c : Host.Cell) : Memory :=
  match m with
  | [] => [c]
  | d :: rest => if c.1 < d.1 then c :: d :: rest else d :: Memory.insertCell rest c

/-- `Mem[a] <- b` (R12), keeping the canonical form: a byte equal to the reset content is not listed. -/
def Memory.write (m : Memory) (a : Nat) (b : Byte) : Memory :=
  let others := m.filter (fun c => c.1 != a)
  if b = initialByte a then others else Memory.insertCell others (a, b)

/-- Write bytes at ascending addresses from `a` (R36). -/
def Memory.writeBytes (m : Memory) (a : Nat) (bytes : List Byte) : Memory :=
  match bytes with
  | [] => m
  | b :: rest => Memory.writeBytes (Memory.write m a b) (a + 1) rest

/-- The addresses of a memory rise strictly from above `low`. -/
def Memory.risesFrom (low : Nat) (m : Memory) : Bool :=
  match m with
  | [] => true
  | c :: rest => decide (low ≤ c.1) && Memory.risesFrom (c.1 + 1) rest

/-- The canonical form: addresses strictly rising and inside the address space (R30), no entry equal to
what an unlisted address reads as. -/
def Memory.wf (m : Memory) : Bool :=
  Memory.risesFrom 0 m &&
    m.all (fun c => decide (c.1 < Config.memSize) && decide (c.2 ≠ initialByte c.1))

/-- The two bytes at `p` as a word, big-endian (R35, R60). -/
def Memory.wordAt (m : Memory) (p : Nat) : Word :=
  wordOfBytes (Memory.read m p) (Memory.read m (p + 1))

/-- `Mem[a]` of a state. -/
def State.byteAt (s : State) (a : Nat) : Byte := s.mem.read a

/-- Write bytes from `a` on; nothing else changes. -/
def State.storeBytes (s : State) (a : Nat) (bytes : List Byte) : State :=
  { s with mem := s.mem.writeBytes a bytes }

/-! ### Registers (R13–R18, R21, R22) -/

/-- `V[x]` (R12). -/
def State.reg (s : State) (x : Reg) : Byte := s.v[x]

/-- `V[x] <- b` (R12). No register is hard-wired (R13). -/
def State.setReg (s : State) (x : Reg) (b : Byte) : State := { s with v := s.v.set x b }

/-- The flag register VF is `V[0xF]` (R14). -/
def vf : Reg := 15

/-- The result, then the flag: a flag-writing instruction writes VF last (R63, D19; log 17). -/
def State.setRegThenFlag (s : State) (x : Reg) (b flag : Byte) : State :=
  (s.setReg x b).setReg vf flag

/-- `V[0..x] <- bytes at a` in ascending order, the other registers unchanged (R104). -/
def State.loadRegsFrom (s : State) (x : Reg) (a : Nat) : State :=
  { s with v := Vector.ofFn (fun r : Reg => if r ≤ x then s.byteAt (a + r) else s.reg r) }

/-- `V[0]` to `V[x]` in order (R103). -/
def State.regsTo (s : State) (x : Reg) : List Byte := s.v.toList.take (x + 1)

/-- `PC <- p`. -/
def State.setPc (s : State) (p : Word) : State := { s with pc := p }

/-- `PC <- trunc16(PC + 2)` when the condition holds: a taken skip passes one word (R57, R129). -/
def State.skipIf (s : State) (c : Bool) : State := if c then s.setPc (s.pc + 2) else s

/-- `I <- a`; all 16 bits are held (R18). -/
def State.setIndex (s : State) (a : Word) : State := { s with index := a }

/-- `DT <- b` (R21). -/
def State.setDt (s : State) (b : Byte) : State := { s with dt := b }

/-- `ST <- b` (R22). -/
def State.setSt (s : State) (b : Byte) : State := { s with st := b }

/-! ### Free draws (R28, R65) -/

/-- A draw was made. -/
def State.countDraw (s : State) : State := { s with draws := s.draws + 1 }

/-! ### The framebuffer (R24) -/

/-- `FB[r][c]`. -/
def Framebuffer.pixel (fb : Framebuffer) (r : Fin 32) (c : Fin 64) : Bool := fb[r][c]

/-- `FB[r][c] <- b`. -/
def Framebuffer.setPixel (fb : Framebuffer) (r : Fin 32) (c : Fin 64) (b : Bool) : Framebuffer :=
  fb.set r (fb[r].set c b)

/-- Every pixel off. -/
def Framebuffer.clear : Framebuffer := Vector.replicate 32 (Vector.replicate 64 false)

/-- A framebuffer under a draw, and whether a pixel has collided so far (R70 `hit`). -/
structure Canvas where
  /-- the pixels -/
  fb : Framebuffer
  /-- a set sprite bit met a pixel that was on -/
  hit : Bool
deriving DecidableEq, Repr

/-- A set sprite bit at a pixel: it collides if the pixel is on, and the pixel is inverted (R70). -/
def Canvas.flip (cv : Canvas) (r : Fin 32) (c : Fin 64) : Canvas where
  fb := cv.fb.setPixel r c (!cv.fb.pixel r c)
  hit := cv.hit || cv.fb.pixel r c

/-- The column of a sprite's bit column: the start column plus the offset, modulo 64 (R70, C4). -/
def wrapColumn (x0 c : Nat) : Fin 64 := Fin.ofNat 64 (x0 + c)

/-- One sprite byte on one row, bit 7 leftmost (R70, D2). PRESUMED by the spec, log 11, unsafe. -/
def Canvas.drawByte (cv : Canvas) (b : Byte) (row : Fin 32) (x0 : Nat) : Canvas :=
  (List.range 8).foldl
    (fun cv c => if b.getLsbD (7 - c) then cv.flip row (wrapColumn x0 c) else cv) cv

/-- The framebuffer row a sprite row falls on, if any (R70, `DRAW_ROW_POLICY`). Under `fault` a draw
that reaches a row past 31 has been refused before any pixel is touched. -/
def screenRow (policy : Config.RowPolicy) (row : Nat) : Option (Fin 32) :=
  if h : row < 32 then some ⟨row, h⟩
  else match policy with
    | .fault => none
    | .clip => none
    | .wrap => some (Fin.ofNat 32 row)

/-- The rows of a sprite, the byte at `base + r` on row `y0 + r`, for the rows below `n` (R70). -/
def Canvas.drawSprite (cv : Canvas) (policy : Config.RowPolicy) (m : Memory) (base x0 y0 n : Nat) :
    Canvas :=
  (List.range n).foldl
    (fun cv r =>
      match screenRow policy (y0 + r) with
      | none => cv
      | some row => cv.drawByte (m.read (base + r)) row x0) cv

/-- `FB <- fb`. -/
def State.setFb (s : State) (fb : Framebuffer) : State := { s with fb := fb }

/-! ### Taking a fault (R64, R105–R111) -/

/-- Record a fault of the step at `p` that fetched `w`; nothing else changes. This is all that fault
entry does: no vector, no mode, nothing saved elsewhere (R108, R110). -/
def State.takeFault (s : State) (k : FaultKind) (p : Word) (w : Option Word) : State :=
  { s with fault := some { kind := k, pc := p, opcode := w } }

/-- `raise K(info)` from a handler, which runs with PC = p + 2 and the word in `Opcode` (R61): PC goes
back to p and the record is written. A next state, log 1. There is no return from a fault: only
`Construct()` clears the record (R111). -/
def State.raise (s : State) (k : FaultKind) : Result :=
  .next ((s.setPc (s.pc - 2)).takeFault k (s.pc - 2) (some s.opcode))

/-- What a step that started in `s0` leaves when its handler left `t`: if a fault was raised, the whole
state before the step with the record (R59 `state <- s0`, R64), else `t`. -/
def State.settle (s0 t : State) : State :=
  match t.fault with
  | none => t
  | some record => { s0 with fault := some record }

/-- `CheckRange(a, len)` (R12, R34): addresses are nats, without wrap. -/
def State.checkRange (s : State) (a len : Nat) (andThen : Result) : Result :=
  if 0 < len ∧ 0xFFF < a + len - 1 then s.raise (.memOutOfBounds (a + len - 1)) else andThen

/-! ### The call stack (R19, R20) -/

/-- Push a return address, then SP + 1; a push onto 16 entries raises `StackOverflow` (R74, D16).
`andThen` gets the state after the push. -/
def State.push (s : State) (a : Word) (andThen : State → Result) : Result :=
  if h : s.sp.val < 16 then
    andThen { s with stack := s.stack.set s.sp.val a h, sp := ⟨s.sp.val + 1, by omega⟩ }
  else s.raise .stackOverflow

/-- SP - 1, then the entry there; a pop of no entries raises `StackUnderflow` (R72, D16). The entry keeps
its value (R19). `andThen` gets the entry and the state after the pop. -/
def State.pop (s : State) (andThen : Word → State → Result) : Result :=
  match s.sp with
  | ⟨0, _⟩ => s.raise .stackUnderflow
  | ⟨k + 1, h⟩ => andThen (s.stack[k]'(by omega)) { s with sp := ⟨k, by omega⟩ }

/-! ### The wait for a key (R26, R65) -/

/-- `AwaitingKey <- true`, `AwaitReg <- x` (R96). -/
def State.beginWait (s : State) (x : Reg) : State := { s with awaitingKey := true, awaitReg := x }

/-- The pressed keys, `S` of R65. -/
def State.pressedKeys (s : State) : List Reg := (List.finRange 16).filter (fun k => s.key[k])

/-- `draw KeyChoice(S)` for the keys `k :: ks`: any of them; the draw's number picks one, modulo their
count (R65, D21; log 4, and log 34 for two instances). One key alone needs no choice. -/
def chooseKey (k : Reg) (ks : List Reg) (draw : Nat) : Reg :=
  match ks with
  | [] => k
  | _ :: _ => (k :: ks).getD (Config.keyChoice draw % (k :: ks).length) k

/-- `ResolveKeyWait()` (R65): with no key down nothing changes; else the chosen key's number goes to
`V[AwaitReg]` and the wait ends. No instruction executes. -/
def State.resolveKeyWait (s : State) : State :=
  match s.pressedKeys with
  | [] => s
  | k :: ks =>
    { (s.setReg s.awaitReg (BitVec.ofNat 8 (chooseKey k ks s.draws).val)).countDraw with
      awaitingKey := false }

/-! ### Fetch (R60, R61) -/

/-- `FetchWord(p)` at PC: parity, then bounds, then the big-endian word (R60, R37, D11, D12). -/
def State.fetchWord (s : State) (alignCheck : Bool) : Except FaultKind Word :=
  if alignCheck && s.pc.toNat % 2 == 1 then .error .misalignedPc
  else if 0xFFF < s.pc.toNat + 1 then .error .fetchOutOfBounds
  else .ok (s.mem.wordAt s.pc.toNat)

/-- The fetched word into `Opcode`, and the pre-advance (R25, R61). -/
def State.latch (s : State) (w : Word) : State := { s with opcode := w, pc := s.pc + 2 }

/-- Place a word where the next step fetches, with no fault recorded and no wait pending, so that the
next step fetches it (log 24). For an even PC of at most 0xFFE. -/
def State.placeWord (s : State) (w : Word) : State :=
  { s.storeBytes s.pc.toNat [firstByte w, secondByte w] with fault := none, awaitingKey := false }

end Sys2Proof.Machine
end

