-- ==== Sys2Proof/Machine/Operands.lean ====
section
/-! DEFINITION. Operand values (30_encoding.md R48, R49): every immediate is zero-extended, none is
scaled. -/

namespace Sys2Proof.Machine

/-- `zext_16(nnn)` (R48). -/
def addr12 (nnn : Imm12) : Word := nnn.setWidth 16

/-- `zext_16(V[x])`. -/
def State.regWord (s : State) (x : Reg) : Word := (s.reg x).setWidth 16

/-- The address `I`, as a nat (R34). -/
def State.base (s : State) : Nat := s.index.toNat

/-- `trunc16(zext_16(V[0]) + zext_16(nnn))`: always V0 (R79). -/
def State.offsetTarget (s : State) (nnn : Imm12) : Word := s.regWord 0 + addr12 nnn

/-- `trunc16(0x050 + V[x] * 5)`: the glyph number is not masked (R101). -/
def State.glyphAddr (s : State) (x : Reg) : Word :=
  BitVec.ofNat 16 (Config.fontBase + (s.reg x).toNat * 5)

/-- The key that `V[x]` names, if it is at most 15 (R93). -/
def State.keyIndex (s : State) (x : Reg) : Option Reg :=
  if h : (s.reg x).toNat < 16 then some ⟨(s.reg x).toNat, h⟩ else none

/-- `V[x] mod 64`, the start column (R70). -/
def State.startColumn (s : State) (x : Reg) : Nat := (s.reg x).toNat % 64

/-- `V[y] mod 32`, the start row (R70). -/
def State.startRow (s : State) (y : Reg) : Nat := (s.reg y).toNat % 32

/-- The three decimal digits of a byte, hundreds first (R102, D3). PRESUMED by the spec, log 12, unsafe. -/
def bcdDigits (b : Byte) : List Byte :=
  [BitVec.ofNat 8 (b.toNat / 100), BitVec.ofNat 8 (b.toNat / 10 % 10), BitVec.ofNat 8 (b.toNat % 10)]

end Sys2Proof.Machine
end

