-- ==== Sys2Proof/Machine/Flags.lean ====
section
/-! DEFINITION. The flag values VF takes (43_alu.md R80, R87–R91; 41_display.md R70): 1 or 0. -/

namespace Sys2Proof.Machine

/-- A condition as VF holds it. -/
def flagOf (c : Bool) : Byte := if c then 1 else 0

/-- The exact sum is above 255 (R87). -/
def carryFlag (a b : Byte) : Byte := flagOf (decide (255 < a.toNat + b.toNat))

/-- `a > b`, strictly: equal operands give 0 (R88, R90). -/
def greaterFlag (a b : Byte) : Byte := flagOf (decide (b.toNat < a.toNat))

/-- The old bit 0, shifted out by `SHR` (R89). -/
def lowBitFlag (a : Byte) : Byte := flagOf (a.getLsbD 0)

/-- The old bit 7, shifted out by `SHL` (R91). -/
def highBitFlag (a : Byte) : Byte := flagOf (a.getLsbD 7)

/-- 1 if a pixel collided, else 0 (R70, D18; log 18). -/
def collisionFlag (cv : Canvas) : Byte := flagOf cv.hit

end Sys2Proof.Machine
end

