-- ==== Sys2Proof/Machine/Alu.lean ====
section
/-! DEFINITION. Registers and arithmetic (43_alu.md R80–R92). Operands are read before any write; a
flag is written last (R63). None of these faults. -/

namespace Sys2Proof.Machine

/-- `LD Vx, kk` (R81). -/
def execLdImm (x : Reg) (kk : Byte) (s : State) : Result := .next (s.setReg x kk)

/-- `ADD Vx, kk` (R82): no flag. -/
def execAddImm (x : Reg) (kk : Byte) (s : State) : Result := .next (s.setReg x (s.reg x + kk))

/-- `LD Vx, Vy` (R83). -/
def execLdReg (x y : Reg) (s : State) : Result := .next (s.setReg x (s.reg y))

/-- `OR Vx, Vy` (R84): no flag. -/
def execOrReg (x y : Reg) (s : State) : Result := .next (s.setReg x (s.reg x ||| s.reg y))

/-- `AND Vx, Vy` (R85): no flag. -/
def execAndReg (x y : Reg) (s : State) : Result := .next (s.setReg x (s.reg x &&& s.reg y))

/-- `XOR Vx, Vy` (R86): no flag. -/
def execXorReg (x y : Reg) (s : State) : Result := .next (s.setReg x (s.reg x ^^^ s.reg y))

/-- `ADD Vx, Vy` (R87): VF is the carry. -/
def execAddReg (x y : Reg) (s : State) : Result :=
  .next (s.setRegThenFlag x (s.reg x + s.reg y) (carryFlag (s.reg x) (s.reg y)))

/-- `SUB Vx, Vy` (R88): VF is Vx > Vy. -/
def execSubReg (x y : Reg) (s : State) : Result :=
  .next (s.setRegThenFlag x (s.reg x - s.reg y) (greaterFlag (s.reg x) (s.reg y)))

/-- `SHR Vx` (R89): VF is the old bit 0; Vy is not read. -/
def execShr (x : Reg) (s : State) : Result :=
  .next (s.setRegThenFlag x (s.reg x >>> 1) (lowBitFlag (s.reg x)))

/-- `SUBN Vx, Vy` (R90): VF is Vy > Vx. -/
def execSubn (x y : Reg) (s : State) : Result :=
  .next (s.setRegThenFlag x (s.reg y - s.reg x) (greaterFlag (s.reg y) (s.reg x)))

/-- `SHL Vx` (R91): VF is the old bit 7; Vy is not read. -/
def execShl (x : Reg) (s : State) : Result :=
  .next (s.setRegThenFlag x (s.reg x <<< 1) (highBitFlag (s.reg x)))

/-- `RND Vx, kk` (R92): the draw, a free byte, masked (log 3; log 34 for two instances). -/
def execRnd (x : Reg) (kk : Byte) (s : State) : Result :=
  .next (s.countDraw.setReg x (Config.randomByte s.draws &&& kk))

end Sys2Proof.Machine
end

