-- ==== Sys2Proof/Machine/Control.lean ====
section
/-! DEFINITION. Control flow (42_control_flow.md R71–R79). A handler runs with PC = p + 2. A target is
never checked when it is set: a bad one faults at the next fetch. -/

namespace Sys2Proof.Machine

/-- `SYS nnn` under a policy (R71). -/
def State.sysUnder (policy : Config.SysPolicy) (s : State) : Result :=
  match policy with
  | .fault => s.raise .unsupportedSys
  | .nop => .next s

/-- `SYS nnn` (R71) under the spec's policy; nnn is ignored. -/
def execSys (_nnn : Imm12) (s : State) : Result := s.sysUnder Config.legacySysPolicy

/-- `RET` (R72). -/
def execRet (s : State) : Result := s.pop (fun a t => .next (t.setPc a))

/-- `JP nnn` (R73). -/
def execJp (nnn : Imm12) (s : State) : Result := .next (s.setPc (addr12 nnn))

/-- `CALL nnn` (R74): the pushed PC is p + 2. -/
def execCall (nnn : Imm12) (s : State) : Result :=
  s.push s.pc (fun t => .next (t.setPc (addr12 nnn)))

/-- `SE Vx, kk` (R75). -/
def execSeImm (x : Reg) (kk : Byte) (s : State) : Result := .next (s.skipIf (s.reg x == kk))

/-- `SNE Vx, kk` (R76). -/
def execSneImm (x : Reg) (kk : Byte) (s : State) : Result := .next (s.skipIf (s.reg x != kk))

/-- `SE Vx, Vy` (R77). -/
def execSeReg (x y : Reg) (s : State) : Result := .next (s.skipIf (s.reg x == s.reg y))

/-- `SNE Vx, Vy` (R78). -/
def execSneReg (x y : Reg) (s : State) : Result := .next (s.skipIf (s.reg x != s.reg y))

/-- `JP V0, nnn` (R79). -/
def execJpV0 (nnn : Imm12) (s : State) : Result := .next (s.setPc (s.offsetTarget nnn))

end Sys2Proof.Machine
end

