-- ==== Sys2Proof/Machine/Display.lean ====
section
/-! DEFINITION. The display instructions (41_display.md R69, R70). -/

namespace Sys2Proof.Machine

/-- `CLS` (R69). -/
def execCls (s : State) : Result := .next (s.setFb Framebuffer.clear)

/-- The canvas a draw leaves: the sprite of `n` bytes at `I` on the state's framebuffer (R70). -/
def State.drawn (s : State) (policy : Config.RowPolicy) (x y : Reg) (n : Nibble) : Canvas :=
  Canvas.drawSprite { fb := s.fb, hit := false } policy s.mem s.base (s.startColumn x) (s.startRow y)
    n.toNat

/-- The last row of a draw (R70). -/
def State.lastRow (s : State) (y : Reg) (n : Nibble) : Nat := s.startRow y + n.toNat - 1

/-- The policy is `fault` and the draw reaches a row past 31 (R70). -/
def State.rowsOverflow (s : State) (policy : Config.RowPolicy) (y : Reg) (n : Nibble) : Bool :=
  policy == .fault && decide (0 < n.toNat) && decide (31 < s.lastRow y n)

/-- `DRW Vx, Vy, n` under a policy (R70): the range of the sprite's bytes is checked first, then its
rows (R109); VF is written last. -/
def State.drawUnder (policy : Config.RowPolicy) (s : State) (x y : Reg) (n : Nibble) : Result :=
  s.checkRange s.base n.toNat
    (if s.rowsOverflow policy y n then s.raise (.drawRowOverflow (s.lastRow y n))
    else
      .next ((s.setFb (s.drawn policy x y n).fb).setReg vf (collisionFlag (s.drawn policy x y n))))

/-- `DRW Vx, Vy, n` (R70) under the spec's policy. -/
def execDrw (x y : Reg) (n : Nibble) (s : State) : Result :=
  s.drawUnder Config.drawRowPolicy x y n

end Sys2Proof.Machine
end

