-- ==== Sys2Proof/Machine/IndexMem.lean ====
section
/-! DEFINITION. The index register and memory instructions (45_index_memory.md R99–R104). None of the
memory ones changes I (D22; log 19). -/

namespace Sys2Proof.Machine

/-- `LD I, nnn` (R99). PRESUMED by the spec (D5), log 10, unsafe. -/
def execLdI (nnn : Imm12) (s : State) : Result := .next (s.setIndex (addr12 nnn))

/-- `ADD I, Vx` (R100): 16 bits, no flag (D14; log 19). -/
def execAddI (x : Reg) (s : State) : Result := .next (s.setIndex (s.index + s.regWord x))

/-- `LD F, Vx` (R101). -/
def execLdF (x : Reg) (s : State) : Result := .next (s.setIndex (s.glyphAddr x))

/-- `LD B, Vx` (R102). -/
def execLdB (x : Reg) (s : State) : Result :=
  s.checkRange s.base 3 (.next (s.storeBytes s.base (bcdDigits (s.reg x))))

/-- `LD [I], Vx` (R103): registers V0 to Vx, x + 1 bytes (C7). -/
def execStoreRegs (x : Reg) (s : State) : Result :=
  s.checkRange s.base (x + 1) (.next (s.storeBytes s.base (s.regsTo x)))

/-- `LD Vx, [I]` (R104): registers V0 to Vx, x + 1 bytes (C7). -/
def execLoadRegs (x : Reg) (s : State) : Result :=
  s.checkRange s.base (x + 1) (.next (s.loadRegsFrom x s.base))

end Sys2Proof.Machine
end

