-- ==== Sys2Proof/Machine/KeyTimer.lean ====
section
/-! DEFINITION. The keypad and timer instructions (44_keypad_timers.md R93–R98). -/

namespace Sys2Proof.Machine

/-- The state of the key that `V[x]` names, or the fault for an index above 15 (R93, D20). -/
def State.withKey (s : State) (x : Reg) (andThen : Bool → Result) : Result :=
  match s.keyIndex x with
  | some k => andThen s.key[k]
  | none => s.raise (.keyIndexOutOfRange (s.reg x))

/-- `SKP Vx` (R93). -/
def execSkp (x : Reg) (s : State) : Result := s.withKey x (fun pressed => .next (s.skipIf pressed))

/-- `SKNP Vx` (R94). -/
def execSknp (x : Reg) (s : State) : Result := s.withKey x (fun pressed => .next (s.skipIf !pressed))

/-- `LD Vx, DT` (R95). -/
def execLdVxDt (x : Reg) (s : State) : Result := .next (s.setReg x s.dt)

/-- `LD Vx, K` (R96): the step only begins the wait. -/
def execLdVxK (x : Reg) (s : State) : Result := .next (s.beginWait x)

/-- `LD DT, Vx` (R97). -/
def execLdDtVx (x : Reg) (s : State) : Result := .next (s.setDt (s.reg x))

/-- `LD ST, Vx` (R98). -/
def execLdStVx (x : Reg) (s : State) : Result := .next (s.setSt (s.reg x))

end Sys2Proof.Machine
end

