-- ==== Sys2Proof/Machine/Cycle.lean ====
section
/-! DEFINITION. The step transaction (40_dispatch.md R59–R67). -/

namespace Sys2Proof.Machine

/-- What the step leaves of a handler's answer: the step is undone if a fault was raised (R64). -/
def State.settleResult (s0 : State) (r : Result) : Result :=
  match r with
  | .next t => .next (s0.settle t)
  | .fault f => .fault f
  | .refused q => .refused q

/-- Decode and execute a fetched word (R59, R61, R62); a word that selects no instruction raises
`IllegalOpcode` (R56). -/
def State.runWord (s : State) (w : Word) : Result :=
  match decode w with
  | .ok i => s.settleResult (exec i (s.latch w))
  | .error _ => s.settleResult ((s.latch w).raise .illegalOpcode)

/-- Fetch, decode, execute (R59). A fetch that fails records its fault with no word (R108). -/
def State.cycle (alignCheck : Bool) (s : State) : Result :=
  match s.fetchWord alignCheck with
  | .ok w => s.runWord w
  | .error k => .next (s.takeFault k s.pc none)

/-- `Step()` (R59): a faulted core reports its fault and changes nothing (R67; log 2), a pending wait is
checked (R65), else one cycle runs. -/
def State.stepOnce (s : State) : Result :=
  match s.fault with
  | some record => .fault (.faulted record)
  | none => if s.awaitingKey then .next s.resolveKeyWait else s.cycle Config.pcAlignCheck

end Sys2Proof.Machine
end

