-- ==== Sys2Proof/Machine/Step.lean ====
section
/-! DEFINITION. The step the host runs, and how it places a word for the step to fetch. -/

namespace Sys2Proof.Machine

/-- `Step()` (40_dispatch.md R59). -/
def step (s : State) : Host.Outcome State Fault Refusal := s.stepOnce

/-- `s` with the table word where the next step fetches (log 24). -/
def State.withFetchWord (s : State) (nbits w : Nat) : State := s.placeWord (wordOfTable nbits w)

end Sys2Proof.Machine
end

