-- ==== Sys2Proof/Machine/Transactions.lean ====
section
/-! DEFINITION. The block's transactions other than the step's own effect (00_scope.md R7, R8, R10):
`Tick`, `SetKey`, `ReadFramebuffer`, `LoadRom`, `Construct`, and what each answers the host. A model
is a labelled transition system whose labels are these (R10). -/

namespace Sys2Proof.Machine

/-- What `Step()` returns (R66). -/
inductive StepResult where
  /-- an instruction executed, or a pending wait was resolved -/
  | ok
  /-- a wait is pending and no key is down -/
  | waiting
  /-- this step faulted, or an earlier one did -/
  | faulted (kind : FaultKind)
deriving DecidableEq, Repr

/-- The fault kinds' codes (R106). -/
def FaultKind.code : FaultKind → Nat
  | .misalignedPc => 1
  | .fetchOutOfBounds => 2
  | .unsupportedSys => 3
  | .illegalOpcode => 4
  | .stackOverflow => 5
  | .stackUnderflow => 6
  | .memOutOfBounds _ => 7
  | .drawRowOverflow _ => 8
  | .keyIndexOutOfRange _ => 9

/-- What a step from `s` that leaves `t` returns (R66): a record means the step faulted; a wait pending
before and after means no key was down. -/
def State.resultOf (s t : State) : StepResult :=
  match t.fault with
  | some record => .faulted record.kind
  | none => if s.awaitingKey && t.awaitingKey then .waiting else .ok

/-- What `Step()` returns at `s` (R59, R66, R67); none only for a refusal, which no step answers. -/
def State.stepResult (s : State) : Option StepResult :=
  match step s with
  | .next t => some (s.resultOf t)
  | .fault (.faulted record) => some (.faulted record.kind)
  | .refused _ => none

/-- A nonzero counter, less one (R115). -/
def tickCounter (b : Byte) : Byte := if b = 0 then b else b - 1

/-- `Tick()` (R115): it acts on a faulted or waiting core too. -/
def State.tick (s : State) : State := (s.setDt (tickCounter s.dt)).setSt (tickCounter s.st)

/-- `SetKey(k, b)` (R117). -/
def State.setKey (s : State) (k : Reg) (pressed : Bool) : State :=
  { s with key := s.key.set k pressed }

/-- A pixel as the 32-bit word the consumer sees (R24). -/
def pixelWord (on : Bool) : BitVec 32 := if on then 0xFFFFFFFF else 0x00000000

/-- `ReadFramebuffer()` (R118): the grid of words; it changes nothing. -/
def State.readFramebuffer (s : State) : Vector (Vector (BitVec 32) 64) 32 :=
  s.fb.map (fun row => row.map pixelWord)

/-- The same words in row-major order, word r * 64 + c (R24, D32). PRESUMED by the spec, log 26. -/
def State.framebufferWords (s : State) : List (BitVec 32) :=
  s.readFramebuffer.toList.flatMap (fun row => row.toList)

/-- What `LoadRom` returns (R126). -/
inductive LoadResult where
  /-- the bytes are in memory -/
  | loaded
  /-- more than 3584 bytes: memory is unchanged, and no core fault is recorded -/
  | romTooLarge
deriving DecidableEq, Repr

/-- `LoadRom(bytes)` (R126, D28): all bytes from 0x200, or none. -/
def State.loadRom (s : State) (bytes : List Byte) : State × LoadResult :=
  if Config.memSize - Config.programBase < bytes.length then (s, .romTooLarge)
  else (s.storeBytes Config.programBase bytes, .loaded)

/-- `Construct()` (R123): every field, whatever its earlier value. -/
def State.construct (_s : State) : State := State.reset

/-- The transactions (R7). -/
inductive Transaction where
  /-- `Step()` -/
  | step
  /-- `Tick()` -/
  | tick
  /-- `SetKey(k, b)` -/
  | setKey (k : Reg) (pressed : Bool)
  /-- `ReadFramebuffer()` -/
  | readFramebuffer
  /-- `LoadRom(bytes)` -/
  | loadRom (bytes : List Byte)
  /-- `Construct()` -/
  | construct
deriving DecidableEq, Repr

/-- The state after a transaction. A step that reports an earlier fault changes nothing (R67). -/
def State.after (s : State) (a : Transaction) : State :=
  match a with
  | .step =>
    match step s with
    | .next t => t
    | .fault _ => s
    | .refused _ => s
  | .tick => s.tick
  | .setKey k pressed => s.setKey k pressed
  | .readFramebuffer => s
  | .loadRom bytes => (s.loadRom bytes).1
  | .construct => s.construct

/-- The state after transactions in order: they are serialised and atomic (R10). -/
def State.afterAll (s : State) (run : List Transaction) : State := run.foldl State.after s

/-- What the host may do before the first step: no second `Construct()` (R8, R126). -/
def admitsBoot (run : List Transaction) : Bool :=
  match run with
  | [] => true
  | .step :: rest =>
    rest.all (fun a => match a with
      | .step => true
      | .tick => true
      | .setKey _ _ => true
      | .readFramebuffer => true
      | .loadRom _ => false
      | .construct => false)
  | .construct :: _ => false
  | .tick :: rest => admitsBoot rest
  | .setKey _ _ :: rest => admitsBoot rest
  | .readFramebuffer :: rest => admitsBoot rest
  | .loadRom _ :: rest => admitsBoot rest

/-- The runs R8 admits: `Construct()` once and first, `LoadRom` only before the first step, everything
else freely interleaved. What any other run does is unsaid (log 22). -/
def admissible (run : List Transaction) : Bool :=
  match run with
  | .construct :: rest => admitsBoot rest
  | _ => false

end Sys2Proof.Machine
end

