-- ==== Sys2Proof/Safety.lean ====
section
/-! DEFINITION. The terms claims are stated in: when a step fetches, what a fault leaves, the frames, the
invariant, the end states. -/

namespace Sys2Proof

/-! ### Frames -/

/-- The registers an instruction writes: its destination, and VF as a flag (R15). -/
def Instr.writesReg (i : Instr) (r : Reg) : Bool :=
  match i with
  | .ldImm x _ => r == x
  | .addImm x _ => r == x
  | .ldReg x _ => r == x
  | .orReg x _ => r == x
  | .andReg x _ => r == x
  | .xorReg x _ => r == x
  | .addReg x _ => r == x || r == 15
  | .subReg x _ => r == x || r == 15
  | .shr x => r == x || r == 15
  | .subn x _ => r == x || r == 15
  | .shl x => r == x || r == 15
  | .rnd x _ => r == x
  | .drw _ _ _ => r == 15
  | .ldVxDt x => r == x
  | .loadRegs x => r ≤ x
  | .sys _ => false
  | .cls => false
  | .ret => false
  | .jp _ => false
  | .call _ => false
  | .seImm _ _ => false
  | .sneImm _ _ => false
  | .seReg _ _ => false
  | .sneReg _ _ => false
  | .ldI _ => false
  | .jpV0 _ => false
  | .skp _ => false
  | .sknp _ => false
  | .ldVxK _ => false
  | .ldDtVx _ => false
  | .ldStVx _ => false
  | .addI _ => false
  | .ldF _ => false
  | .ldB _ => false
  | .storeRegs _ => false

/-- How many bytes from `I` on an instruction reads or writes as data (R31). -/
def Instr.accessLength : Instr → Nat
  | .drw _ _ n => n.toNat
  | .ldB _ => 3
  | .storeRegs x => x + 1
  | .loadRegs x => x + 1
  | .sys _ => 0
  | .cls => 0
  | .ret => 0
  | .jp _ => 0
  | .call _ => 0
  | .seImm _ _ => 0
  | .sneImm _ _ => 0
  | .seReg _ _ => 0
  | .sneReg _ _ => 0
  | .ldImm _ _ => 0
  | .addImm _ _ => 0
  | .ldReg _ _ => 0
  | .orReg _ _ => 0
  | .andReg _ _ => 0
  | .xorReg _ _ => 0
  | .addReg _ _ => 0
  | .subReg _ _ => 0
  | .shr _ => 0
  | .subn _ _ => 0
  | .shl _ => 0
  | .ldI _ => 0
  | .jpV0 _ => 0
  | .rnd _ _ => 0
  | .skp _ => 0
  | .sknp _ => 0
  | .ldVxDt _ => 0
  | .ldVxK _ => 0
  | .ldDtVx _ => 0
  | .ldStVx _ => 0
  | .addI _ => 0
  | .ldF _ => 0

/-- How many bytes from `I` on an instruction stores: only `LD B` and `LD [I]` store (R31). -/
def Instr.storeLength (i : Instr) : Nat :=
  match i with
  | .ldB _ => i.accessLength
  | .storeRegs _ => i.accessLength
  | .drw _ _ _ => 0
  | .loadRegs _ => 0
  | .sys _ => 0
  | .cls => 0
  | .ret => 0
  | .jp _ => 0
  | .call _ => 0
  | .seImm _ _ => 0
  | .sneImm _ _ => 0
  | .seReg _ _ => 0
  | .sneReg _ _ => 0
  | .ldImm _ _ => 0
  | .addImm _ _ => 0
  | .ldReg _ _ => 0
  | .orReg _ _ => 0
  | .andReg _ _ => 0
  | .xorReg _ _ => 0
  | .addReg _ _ => 0
  | .subReg _ _ => 0
  | .shr _ => 0
  | .subn _ _ => 0
  | .shl _ => 0
  | .ldI _ => 0
  | .jpV0 _ => 0
  | .rnd _ _ => 0
  | .skp _ => 0
  | .sknp _ => 0
  | .ldVxDt _ => 0
  | .ldVxK _ => 0
  | .ldDtVx _ => 0
  | .ldStVx _ => 0
  | .addI _ => 0
  | .ldF _ => 0

/-- The bits of its word an instruction uses: those its row fixes and its fields (R50, R55). -/
def Instr.usedBits : Instr → Word
  | .cls => 0xF0FF
  | .ret => 0xF0FF
  | .seReg _ _ => 0xFFF0
  | .sneReg _ _ => 0xFFF0
  | .shr _ => 0xFF0F
  | .shl _ => 0xFF0F
  | .sys _ => 0xFFFF
  | .jp _ => 0xFFFF
  | .call _ => 0xFFFF
  | .seImm _ _ => 0xFFFF
  | .sneImm _ _ => 0xFFFF
  | .ldImm _ _ => 0xFFFF
  | .addImm _ _ => 0xFFFF
  | .ldReg _ _ => 0xFFFF
  | .orReg _ _ => 0xFFFF
  | .andReg _ _ => 0xFFFF
  | .xorReg _ _ => 0xFFFF
  | .addReg _ _ => 0xFFFF
  | .subReg _ _ => 0xFFFF
  | .subn _ _ => 0xFFFF
  | .ldI _ => 0xFFFF
  | .jpV0 _ => 0xFFFF
  | .rnd _ _ => 0xFFFF
  | .drw _ _ _ => 0xFFFF
  | .skp _ => 0xFFFF
  | .sknp _ => 0xFFFF
  | .ldVxDt _ => 0xFFFF
  | .ldVxK _ => 0xFFFF
  | .ldDtVx _ => 0xFFFF
  | .ldStVx _ => 0xFFFF
  | .addI _ => 0xFFFF
  | .ldF _ => 0xFFFF
  | .ldB _ => 0xFFFF
  | .storeRegs _ => 0xFFFF
  | .loadRegs _ => 0xFFFF

end Sys2Proof

namespace Sys2Proof.Machine

/-- Which kinds an instruction may raise itself (R107); fetch and decode raise the others. -/
def MayRaise (i : Instr) (k : FaultKind) : Prop :=
  match k with
  | .unsupportedSys => ∃ nnn, i = .sys nnn
  | .stackOverflow => ∃ nnn, i = .call nnn
  | .stackUnderflow => i = .ret
  | .memOutOfBounds _ => 0 < i.accessLength
  | .drawRowOverflow _ => ∃ x y n, i = .drw x y n
  | .keyIndexOutOfRange _ => ∃ x, i = .skp x ∨ i = .sknp x
  | .misalignedPc => False
  | .fetchOutOfBounds => False
  | .illegalOpcode => False

/-! ### What a step fetches and what it leaves -/

/-- `s` is about to execute the word `w`: no fault, no wait, PC even and at most 0xFFE, and `w` is the
two bytes there, the lower address in bits 15:8 (R59, R60). -/
def State.Fetches (s : State) (w : Word) : Prop :=
  s.fault = none ∧ s.awaitingKey = false ∧ s.pc.toNat % 2 = 0 ∧ s.pc.toNat ≤ 0xFFE ∧
    w = s.byteAt s.pc.toNat ++ s.byteAt (s.pc.toNat + 1)

/-- The state a handler sees: PC = p + 2 and the word in `Opcode` (R25, R61). -/
def State.preAdvanced (s : State) (w : Word) : State := { s with pc := s.pc + 2, opcode := w }

/-- What a handler that raises leaves, from the state it saw: PC back at p and the record (R64, R108). -/
def State.faultedWith (s : State) (k : FaultKind) : State :=
  { s with pc := s.pc - 2, fault := some { kind := k, pc := s.pc - 2, opcode := some s.opcode } }

/-- `t` is `s` with `b` in register `x` and nothing else changed. -/
def OnlyReg (s t : State) (x : Reg) (b : Byte) : Prop :=
  t.reg x = b ∧ (∀ r, r ≠ x → t.reg r = s.reg r) ∧ t = { s with v := t.v }

/-- `t` is `s` with the flag in VF, `b` in register `x` unless that is VF, and nothing else changed. -/
def OnlyRegAndFlag (s t : State) (x : Reg) (b flag : Byte) : Prop :=
  t.reg 15 = flag ∧ (x ≠ 15 → t.reg x = b) ∧ (∀ r, r ≠ x → r ≠ 15 → t.reg r = s.reg r) ∧
    t = { s with v := t.v }

/-! ### What a draw covers (R70) -/

/-- A sprite byte drawn from column `x0` sets a bit at column `c`: the offset, modulo 64, is below 8 and
the bit is 7 minus the offset. -/
def byteCovers (b : Byte) (x0 : Nat) (c : Fin 64) : Bool :=
  decide ((c.val + 64 - x0) % 64 < 8) && b.getLsbD (7 - (c.val + 64 - x0) % 64)

/-- Which sprite row falls on screen row `r` when row 0 falls on `y0`: the offset, which wraps modulo 32
under `wrap` only. -/
def spriteRow (policy : Config.RowPolicy) (y0 : Nat) (r : Fin 32) : Option Nat :=
  match policy with
  | .wrap => some ((r.val + 32 - y0) % 32)
  | .fault => if y0 ≤ r.val then some (r.val - y0) else none
  | .clip => if y0 ≤ r.val then some (r.val - y0) else none

/-- `Dxyn` in state `s` has a set sprite bit at the pixel. -/
def State.covers (s : State) (policy : Config.RowPolicy) (x y : Reg) (n : Nibble) (r : Fin 32)
    (c : Fin 64) : Bool :=
  match spriteRow policy ((s.reg y).toNat % 32) r with
  | none => false
  | some k =>
    decide (k < n.toNat) && byteCovers (s.byteAt (s.index.toNat + k)) ((s.reg x).toNat % 64) c

/-- The draw fits the screen's rows: no sprite row passes row 31 (R70). -/
def State.rowsFit (s : State) (y : Reg) (n : Nibble) : Prop :=
  n.toNat = 0 ∨ (s.reg y).toNat % 32 + n.toNat ≤ 32

/-- The `len` bytes from `I` on are inside memory (R12, R34). -/
def State.bytesFit (s : State) (len : Nat) : Prop := len = 0 ∨ s.index.toNat + len ≤ 0x1000

/-! ### The invariant -/

/-- The record tells the truth about the state it stands in: the faulting step is at PC, its word (if one
was fetched) is in memory there, and the condition of its kind holds (R106, R107, R108). -/
def FaultFits (s : State) (record : FaultRecord) : Prop :=
  record.pc = s.pc ∧
    match record.opcode with
    | none =>
      (record.kind = .misalignedPc ∧ s.pc.toNat % 2 = 1) ∨
        (record.kind = .fetchOutOfBounds ∧ s.pc.toNat % 2 = 0 ∧ 0xFFE < s.pc.toNat)
    | some w =>
      s.pc.toNat % 2 = 0 ∧ s.pc.toNat ≤ 0xFFE ∧
      w = s.byteAt s.pc.toNat ++ s.byteAt (s.pc.toNat + 1) ∧
      match record.kind with
      | .misalignedPc => False
      | .fetchOutOfBounds => False
      | .unsupportedSys => ∃ nnn, decode w = .ok (.sys nnn)
      | .illegalOpcode => ∀ i, decode w ≠ .ok i
      | .stackOverflow => s.sp = 16 ∧ ∃ nnn, decode w = .ok (.call nnn)
      | .stackUnderflow => s.sp = 0 ∧ decode w = .ok .ret
      | .memOutOfBounds last =>
        0xFFF < last ∧ ∃ i, decode w = .ok i ∧ last + 1 = s.index.toNat + i.accessLength
      | .drawRowOverflow row =>
        31 < row ∧ ∃ x y n, decode w = .ok (.drw x y n) ∧
          row + 1 = (s.reg y).toNat % 32 + n.toNat
      | .keyIndexOutOfRange b =>
        15 < b.toNat ∧ ∃ x, s.reg x = b ∧ (decode w = .ok (.skp x) ∨ decode w = .ok (.sknp x))

/-- What every step keeps: memory in canonical form inside the address space (R30); PC at most 0x10FE
(R16, R17); every stack entry even and at most 0x1000, as a return address is (R72, R74); a faulted core
waits for no key (R96) and its record fits the state. `0 ≤ SP ≤ 16` (R20) holds by SP's type. -/
def State.Inv (s : State) : Prop :=
  s.mem.wf = true ∧ s.pc.toNat ≤ 0x10FE ∧
    (∀ j : Fin 16, s.stack[j].toNat % 2 = 0 ∧ s.stack[j].toNat ≤ 0x1000) ∧
    (∀ record, s.fault = some record → s.awaitingKey = false ∧ FaultFits s record)

/-! ### End states -/

/-- "Idle at address a" (R68): the word at PC = a is `JP a`. -/
def State.IdleAt (s : State) (a : Imm12) : Prop :=
  s.fault = none ∧ s.awaitingKey = false ∧ s.pc = addr12 a ∧ a.toNat % 2 = 0 ∧ a.toNat ≤ 0xFFE ∧
    s.byteAt a.toNat ++ s.byteAt (a.toNat + 1) = (0x1000 : Word) ||| addr12 a

end Sys2Proof.Machine
end

