-- ==== Sys2Proof/Certificates/Slice0/Obligations.lean ====
section
/-! DEFINITION. The statements for the provers. Each docstring names the rules of spec/ it states. A
clause that the spec gives as its own decision (`D<n>`) or from general knowledge is said to be so. -/

open Sys2Proof Sys2Proof.Machine

/-! ### Encoding and decoding -/

/-- R50, R62, R63 of the spec's own † values (D4, log 9): the decoder reads every well-formed instruction
back from its word, with every operand value. -/
def Obligations.DecodeOfEncodeIsTheInstruction : Prop :=
  ∀ i : Instr, i.wf = true → decode (encode i) = .ok i

/-- Words written out from the spec's encodings (95_test_vectors.md, R50) decode to what they stand for;
the selector values are the spec's † values (D4, log 9). -/
def Obligations.WordsOfTheSpecDecode : Prop :=
  decode 0x00E0 = .ok .cls ∧ decode 0x01E0 = .ok .cls ∧ decode 0x03EE = .ok .ret ∧
    decode 0x0123 = .ok (.sys 0x123) ∧ decode 0x1345 = .ok (.jp 0x345) ∧
    decode 0x3342 = .ok (.seImm 3 0x42) ∧ decode 0x5121 = .ok (.seReg 1 2) ∧
    decode 0x71FF = .ok (.addImm 1 0xFF) ∧ decode 0x8F14 = .ok (.addReg 15 1) ∧
    decode 0x826E = .ok (.shl 2) ∧ decode 0xBA00 = .ok (.jpV0 0xA00) ∧
    decode 0xD125 = .ok (.drw 1 2 5) ∧ decode 0xE59E = .ok (.skp 5) ∧
    decode 0xF30A = .ok (.ldVxK 3) ∧ decode 0xFA33 = .ok (.ldB 10)

/-- R55: encoding a decoded word gives the word back, with the ignored bits 0 (log 25). -/
def Obligations.EncodeOfDecodeKeepsUsedBits : Prop :=
  ∀ (w : Word) (i : Instr), decode w = .ok i → encode i = w &&& i.usedBits

/-- R50, opcode_table.json: a word decodes only to a well-formed instruction whose row it matches. The
selector values are the spec's † values (D4, log 9). -/
def Obligations.DecodedWordMatchesItsRow : Prop :=
  ∀ (w : Word) (i : Instr), decode w = .ok i →
    i.wf = true ∧ w &&& (tableRow i).mask = (tableRow i).bits

/-- R51 to R56: the words that select no instruction are exactly those of R56's table in families 8, E
and F, and the `SYS` words are exactly those of its first row. The selector values are the spec's † values
(D4, log 9); that the former fault is its D10 (log 21). -/
def Obligations.WordsThatSelectNothing : Prop :=
  ∀ w : Word,
    ((∀ i, decode w ≠ .ok i) ↔
      (w.toNat / 0x1000 = 8 ∧ w.toNat % 16 ∈ [0x8, 0x9, 0xA, 0xB, 0xC, 0xD, 0xF]) ∨
      (w.toNat / 0x1000 = 0xE ∧ w.toNat % 256 ∉ [0x9E, 0xA1]) ∨
      (w.toNat / 0x1000 = 0xF ∧
        w.toNat % 256 ∉ [0x07, 0x0A, 0x15, 0x18, 0x1E, 0x29, 0x33, 0x55, 0x65])) ∧
    ((∃ nnn, decode w = .ok (.sys nnn)) ↔
      w.toNat / 0x1000 = 0 ∧ w.toNat % 256 ∉ [0xE0, 0xEE])

/-! ### The step -/

/-- R59, R60, R61, R64: a step at a fetchable word that decodes runs that instruction on the pre-advanced
state and keeps what it leaves, unless a fault was raised: then the state before the step with the record
(D6; log 1). The word is the two bytes at PC, the lower address in bits 15:8 (`State.Fetches`): that byte
order is PRESUMED, from the spec's D1 (R35; log 8). -/
def Obligations.StepRunsTheDecodedInstruction : Prop :=
  ∀ (s t : State) (w : Word) (i : Instr), s.Fetches w → decode w = .ok i →
    exec i (s.preAdvanced w) = .next t →
    step s = .next (match t.fault with
      | none => t
      | some record => { s with fault := some record })

/-- R56, R59, R60, R108 (D6, D10; log 21): a step at a word that selects no instruction records
`IllegalOpcode`, the PC and the word, and changes nothing else. The word run and recorded is the two bytes
at PC, the lower address in bits 15:8 (`State.Fetches`): that byte order is PRESUMED, from the spec's D1
(R35; log 8). -/
def Obligations.IllegalWordFaults : Prop :=
  ∀ (s : State) (w : Word), s.Fetches w → (∀ i, decode w ≠ .ok i) →
    step s = .next { s with fault := some ⟨.illegalOpcode, s.pc, some w⟩ } ∧
      s.stepResult = some (.faulted .illegalOpcode)

/-- R60, R108, R109 (D8, D11, D12): a fetch at an odd PC records `MisalignedPc`, and one at an even PC above
0xFFE `FetchOutOfBounds`, with no word; nothing else changes. -/
def Obligations.BadFetchFaults : Prop :=
  ∀ s : State, s.fault = none → s.awaitingKey = false →
    (s.pc.toNat % 2 = 1 →
      step s = .next { s with fault := some ⟨.misalignedPc, s.pc, none⟩ } ∧
        s.stepResult = some (.faulted .misalignedPc)) ∧
    (s.pc.toNat % 2 = 0 → 0xFFE < s.pc.toNat →
      step s = .next { s with fault := some ⟨.fetchOutOfBounds, s.pc, none⟩ } ∧
        s.stepResult = some (.faulted .fetchOutOfBounds))

/-- R67 (D6, D34; log 2 for the outcome): a step on a faulted core reports the recorded fault and changes
nothing. -/
def Obligations.FaultedCoreIsStuck : Prop :=
  ∀ (s : State) (record : FaultRecord), s.fault = some record →
    step s = .fault (.faulted record) ∧ s.stepResult = some (.faulted record.kind) ∧
      s.after .step = s

/-- R65, R122 (D21): while a wait is pending and no key is down, a step changes nothing and returns
`Waiting`. -/
def Obligations.WaitWithNoKeyChangesNothing : Prop :=
  ∀ s : State, s.fault = none → s.awaitingKey = true → (∀ k : Reg, s.key[k] = false) →
    step s = .next s ∧ s.stepResult = some .waiting

/-- R65 (D21): with a key down, a step ends the wait: some pressed key's number is in the awaited
register, no instruction runs, and nothing else of the spec's state changes. Which of several keys is a
free value (log 4), counted in `draws` (log 5). -/
def Obligations.WaitEndsWithAPressedKey : Prop :=
  ∀ s : State, s.fault = none → s.awaitingKey = true → (∃ k : Reg, s.key[k] = true) →
    ∃ (t : State) (k : Reg), step s = .next t ∧ s.key[k] = true ∧
      (t.reg s.awaitReg).toNat = k.val ∧ (∀ r, r ≠ s.awaitReg → t.reg r = s.reg r) ∧
      t = { s with v := t.v, awaitingKey := false, draws := s.draws + 1 } ∧
      s.stepResult = some .ok

/-- R64, R108, R110 (D6): a step that faults leaves the state before it with the record, whose PC is the
step's address, and returns `Faulted`. -/
def Obligations.FaultIsPrecise : Prop :=
  ∀ (s t : State) (record : FaultRecord), s.fault = none → step s = .next t →
    t.fault = some record →
    t = { s with fault := some record } ∧ record.pc = s.pc ∧
      s.stepResult = some (.faulted record.kind)

/-- R59, R66, R67 (D6, D34; log 2 for the outcome): a step answers a next state exactly when no fault is
recorded, and never refuses. -/
def Obligations.StepAnswersUnlessFaulted : Prop :=
  ∀ s : State, (s.fault = none ↔ ∃ t, step s = .next t) ∧ ∀ q, step s ≠ .refused q

/-- R59, R64 (D6; log 1): every instruction answers a next state in every state: what it raises is
recorded there. -/
def Obligations.EveryInstructionAnswersNext : Prop :=
  ∀ (i : Instr) (s : State), ∃ t, exec i s = .next t

/-- R107, R108: a fault an instruction raises is of a kind that instruction has, with the step's address
and word, PC back at that address, and nothing else changed. The kinds are the spec's decisions (D6, D7, D9,
D13, D16, D17, D20; log 21); taking the address as PC - 2 is the model's form (log 30). -/
def Obligations.FaultsPerInstruction : Prop :=
  ∀ (i : Instr) (s t : State) (record : FaultRecord), s.fault = none → exec i s = .next t →
    t.fault = some record → MayRaise i record.kind ∧ t = s.faultedWith record.kind

/-! ### The invariant -/

/-- R16, R17, R20, R30, R60, R64, R72, R74, R96, R107, R108: the invariant is kept by every step. Three of its
clauses rest on choices: the canonical form of memory is the model's (log 14); that stack entries are even
needs the parity check of the fetch, `PC_ALIGN_CHECK = true` (D11; log 6); and that a record's word is the
two bytes at its address needs the byte order PRESUMED from the spec's D1 (R35; log 8). Which faults there
are, and that they undo the step, are the spec's decisions (D6, D9 to D13, D16, D17, D20; logs 1, 21). -/
def Obligations.StepKeepsTheInvariant : Prop :=
  ∀ s t : State, s.Inv → step s = .next t → t.Inv

/-- R123: the invariant, whose canonical form of memory is the model's (log 14), holds after reset. -/
def Obligations.ResetMeetsTheInvariant : Prop := State.reset.Inv

/-- R113, R115, R117, R126 (D27, D28): the host's transactions keep the invariant; a load does on a core
with no recorded fault, as every core before its first step is. The canonical form of memory is the model's
(log 14), and so is giving the transactions as functions of their own (log 23). -/
def Obligations.HostTransactionsKeepTheInvariant : Prop :=
  ∀ s : State, s.Inv →
    s.tick.Inv ∧ (∀ k b, (s.setKey k b).Inv) ∧ s.construct.Inv ∧
      (s.fault = none → ∀ bytes, (s.loadRom bytes).1.Inv)

/-- R8, R10, R126, R127: after any run the host may make (construction first, loads only before the first
step, everything else interleaved freely) the invariant holds. The interleaving and the load's details are
the spec's D27 and D28; runs as lists of transactions beside `step` are the model's (log 23), and so is
which runs are left unsaid (log 22). The clauses of the invariant rest on logs 6, 8 and 14. -/
def Obligations.AdmissibleRunsMeetTheInvariant : Prop :=
  ∀ (s : State) (run : List Transaction), admissible run = true → (s.afterAll run).Inv

/-! ### Reset -/

/-- R123, R124, R125: the state after `Construct()`. The values of `I`, `DT`, `ST`, the keypad, the
framebuffer, `Opcode` and the wait state are the spec's decision D24 (log 13), glyphs 1 to F are D25
(log 7), and `draws` is the model's (log 5). R123 speaks of the addresses up to 0xFFF; that the model's total
read gives 0 above them, where the spec has no byte, is its own choice (log 15). -/
def Obligations.ResetStateIsTheSpecs : Prop :=
  ∀ s : State,
    s.construct = State.reset ∧ (∀ r, State.reset.reg r = 0) ∧ State.reset.pc = 0x200 ∧
      State.reset.index = 0 ∧ (∀ j : Fin 16, State.reset.stack[j] = 0) ∧ State.reset.sp = 0 ∧
      State.reset.dt = 0 ∧ State.reset.st = 0 ∧ (∀ k : Reg, State.reset.key[k] = false) ∧
      (∀ r c, State.reset.fb.pixel r c = false) ∧ State.reset.opcode = 0 ∧
      State.reset.awaitingKey = false ∧ State.reset.awaitReg = 0 ∧ State.reset.fault = none ∧
      (∀ a, a < 0x50 ∨ 0xA0 ≤ a → State.reset.byteAt a = 0) ∧
      (∀ a, a < 80 → some (State.reset.byteAt (0x50 + a)) = Config.fontTable[a]?) ∧
      Config.fontTable.length = 80 ∧ Config.fontTable.take 5 = [0xF0, 0x90, 0x90, 0x90, 0xF0]

/-- R127 (D9, D24): with no ROM loaded the first step faults `UnsupportedSys` on the word 0. -/
def Obligations.BootWithoutRomFaults : Prop :=
  step State.reset =
    .next { State.reset with fault := some ⟨.unsupportedSys, 0x200, some 0x0000⟩ }

/-! ### Control flow -/

/-- R73: `JP nnn` sets PC to nnn and changes nothing else. -/
def Obligations.JumpSetsPc : Prop :=
  ∀ (nnn : Imm12) (s : State), exec (.jp nnn) s = .next { s with pc := nnn.setWidth 16 }

/-- R74 (D16 for the fault): `CALL nnn` stores PC, which is p + 2, in the entry at SP, adds 1 to SP and
sets PC to nnn; with SP = 16 it raises `StackOverflow`. -/
def Obligations.CallPushesTheReturnAddress : Prop :=
  ∀ (nnn : Imm12) (s : State),
    (s.sp.val < 16 → ∃ t, exec (.call nnn) s = .next t ∧ t.sp.val = s.sp.val + 1 ∧
      (∀ j : Fin 16, t.stack[j] = if j.val = s.sp.val then s.pc else s.stack[j]) ∧
      t = { s with stack := t.stack, sp := t.sp, pc := nnn.setWidth 16 }) ∧
    (s.sp = 16 → exec (.call nnn) s = .next (s.faultedWith .stackOverflow))

/-- R72, R19 (D16, log 21, for the fault; D33, log 31, for the kept entry): `RET` takes 1 from SP and sets
PC to the entry there, which keeps its value; with SP = 0 it raises `StackUnderflow`. -/
def Obligations.ReturnPopsTheReturnAddress : Prop :=
  ∀ s : State,
    (∀ j : Fin 16, s.sp.val = j.val + 1 → ∃ t, exec .ret s = .next t ∧ t.sp.val = j.val ∧
      t = { s with sp := t.sp, pc := s.stack[j] }) ∧
    (s.sp = 0 → exec .ret s = .next (s.faultedWith .stackUnderflow))

/-- R72, R74 (the source's example S6): a `CALL` that does not overflow, and then a `RET` fetched at its
target, leave PC at the instruction after the `CALL` and SP as it was. The fetch is big-endian, PRESUMED
from the spec's D1 (R35, R60; log 8). -/
def Obligations.CallThenReturnComesBack : Prop :=
  ∀ (s : State) (w : Word) (nnn : Imm12), s.Fetches w → decode w = .ok (.call nnn) →
    s.sp.val < 16 →
    ∃ t, step s = .next t ∧ t.pc = nnn.setWidth 16 ∧
      ∀ w', t.Fetches w' → decode w' = .ok .ret →
        ∃ u, step t = .next u ∧ u.pc = s.pc + 2 ∧ u.sp = s.sp

/-- R75, R76: `SE Vx, kk` and `SNE Vx, kk` add 2 to PC when V[x] equals, or does not equal, kk, and change
nothing else. -/
def Obligations.SkipsOnImmediate : Prop :=
  ∀ (x : Reg) (kk : Byte) (s : State),
    exec (.seImm x kk) s = .next { s with pc := if s.reg x = kk then s.pc + 2 else s.pc } ∧
    exec (.sneImm x kk) s = .next { s with pc := if s.reg x ≠ kk then s.pc + 2 else s.pc }

/-- R77, R78: `SE Vx, Vy` and `SNE Vx, Vy` add 2 to PC when the registers are equal, or not equal, and
change nothing else. -/
def Obligations.SkipsOnRegisters : Prop :=
  ∀ (x y : Reg) (s : State),
    exec (.seReg x y) s = .next { s with pc := if s.reg x = s.reg y then s.pc + 2 else s.pc } ∧
    exec (.sneReg x y) s = .next { s with pc := if s.reg x ≠ s.reg y then s.pc + 2 else s.pc }

/-- R79: `JP V0, nnn` sets PC to V0 + nnn, which never wraps, and changes nothing else. -/
def Obligations.JumpWithOffsetAddsV0 : Prop :=
  ∀ (nnn : Imm12) (s : State), ∃ t, exec (.jpV0 nnn) s = .next t ∧
    t.pc.toNat = (s.reg 0).toNat + nnn.toNat ∧ t = { s with pc := t.pc }

/-- R71 (D9; log 6): `SYS nnn` raises `UnsupportedSys` under the spec's policy, and has no effect under
`nop`. -/
def Obligations.SysFaultsUnderThePolicy : Prop :=
  ∀ (nnn : Imm12) (s : State),
    exec (.sys nnn) s = .next (s.faultedWith .unsupportedSys) ∧
      State.sysUnder .fault s = .next (s.faultedWith .unsupportedSys) ∧
      State.sysUnder .nop s = .next s

/-- R17: where a step that does not fault leaves PC. The fetch is big-endian, PRESUMED from the spec's D1
(R35, R60; log 8). -/
def Obligations.PcAfterEveryStep : Prop :=
  ∀ (s t : State) (w : Word) (i : Instr), s.Fetches w → decode w = .ok i → step s = .next t →
    t.fault = none →
    match i with
    | .jp nnn => t.pc.toNat = nnn.toNat
    | .call nnn => t.pc.toNat = nnn.toNat
    | .jpV0 nnn => t.pc.toNat = (s.reg 0).toNat + nnn.toNat
    | .ret => ∃ j : Fin 16, s.sp.val = j.val + 1 ∧ t.pc = s.stack[j]
    | .seImm x kk => t.pc.toNat = s.pc.toNat + if s.reg x = kk then 4 else 2
    | .sneImm x kk => t.pc.toNat = s.pc.toNat + if s.reg x = kk then 2 else 4
    | .seReg x y => t.pc.toNat = s.pc.toNat + if s.reg x = s.reg y then 4 else 2
    | .sneReg x y => t.pc.toNat = s.pc.toNat + if s.reg x = s.reg y then 2 else 4
    | .skp x => ∃ k : Reg, (s.reg x).toNat = k.val ∧
        t.pc.toNat = s.pc.toNat + if s.key[k] = true then 4 else 2
    | .sknp x => ∃ k : Reg, (s.reg x).toNat = k.val ∧
        t.pc.toNat = s.pc.toNat + if s.key[k] = true then 2 else 4
    | _ => t.pc.toNat = s.pc.toNat + 2

/-- R68 (D34): idle at a, a step fetches `JP a` again, leaves every field but the `Opcode` slot, which
holds that word (D36; log 16), and is idle at a still. That the word there is `JP a` takes the byte order
(R35, D1; log 8) and the op value (R50, D4; log 9) PRESUMED. -/
def Obligations.IdleIsAFixedPoint : Prop :=
  ∀ (s : State) (a : Imm12), s.IdleAt a →
    ∃ t, step s = .next t ∧ t = { s with opcode := (0x1000 : Word) ||| a.setWidth 16 } ∧
      t.IdleAt a ∧ s.stepResult = some .ok

/-! ### Registers and arithmetic -/

/-- R81, R83: `LD Vx, kk` and `LD Vx, Vy` write V[x] and nothing else. -/
def Obligations.LoadsWriteOneRegister : Prop :=
  ∀ (x y : Reg) (kk : Byte) (s : State),
    (∃ t, exec (.ldImm x kk) s = .next t ∧ OnlyReg s t x kk) ∧
    (∃ t, exec (.ldReg x y) s = .next t ∧ OnlyReg s t x (s.reg y))

/-- R82: `ADD Vx, kk` writes the sum modulo 256 to V[x] and nothing else: no flag. -/
def Obligations.AddImmediateHasNoFlag : Prop :=
  ∀ (x : Reg) (kk : Byte) (s : State), ∃ t, exec (.addImm x kk) s = .next t ∧
    OnlyReg s t x (BitVec.ofNat 8 ((s.reg x).toNat + kk.toNat))

/-- R84, R85, R86: `OR`, `AND` and `XOR` write V[x] and nothing else: no flag. -/
def Obligations.LogicWritesOneRegister : Prop :=
  ∀ (x y : Reg) (s : State),
    (∃ t, exec (.orReg x y) s = .next t ∧ OnlyReg s t x (s.reg x ||| s.reg y)) ∧
    (∃ t, exec (.andReg x y) s = .next t ∧ OnlyReg s t x (s.reg x &&& s.reg y)) ∧
    (∃ t, exec (.xorReg x y) s = .next t ∧ OnlyReg s t x (s.reg x ^^^ s.reg y))

/-- R87 (D19, log 17, for VF last): `ADD Vx, Vy` writes the sum modulo 256 to V[x], then 1 to VF if the
exact sum is above 255 and 0 if not. -/
def Obligations.AddRegistersSetsCarry : Prop :=
  ∀ (x y : Reg) (s : State), ∃ t, exec (.addReg x y) s = .next t ∧
    OnlyRegAndFlag s t x (BitVec.ofNat 8 ((s.reg x).toNat + (s.reg y).toNat))
      (if 255 < (s.reg x).toNat + (s.reg y).toNat then 1 else 0)

/-- R88, R90 (D19, log 17, for VF last): `SUB` writes Vx - Vy and `SUBN` Vy - Vx, modulo 256, to V[x],
then 1 to VF if the first exceeds the second strictly and 0 if not. -/
def Obligations.SubtractsSetStrictlyGreater : Prop :=
  ∀ (x y : Reg) (s : State),
    (∃ t, exec (.subReg x y) s = .next t ∧
      OnlyRegAndFlag s t x (BitVec.ofNat 8 ((s.reg x).toNat + 256 - (s.reg y).toNat))
        (if (s.reg x).toNat > (s.reg y).toNat then 1 else 0)) ∧
    (∃ t, exec (.subn x y) s = .next t ∧
      OnlyRegAndFlag s t x (BitVec.ofNat 8 ((s.reg y).toNat + 256 - (s.reg x).toNat))
        (if (s.reg y).toNat > (s.reg x).toNat then 1 else 0))

/-- R89, R91 (D19, log 17, for VF last): `SHR` halves V[x] and puts its old bit 0 in VF; `SHL` doubles V[x]
modulo 256 and puts its old bit 7 in VF. -/
def Obligations.ShiftsCaptureTheBitShiftedOut : Prop :=
  ∀ (x : Reg) (s : State),
    (∃ t, exec (.shr x) s = .next t ∧
      OnlyRegAndFlag s t x (BitVec.ofNat 8 ((s.reg x).toNat / 2))
        (BitVec.ofNat 8 ((s.reg x).toNat % 2))) ∧
    (∃ t, exec (.shl x) s = .next t ∧
      OnlyRegAndFlag s t x (BitVec.ofNat 8 (2 * (s.reg x).toNat))
        (BitVec.ofNat 8 ((s.reg x).toNat / 128)))

/-- R92, R28 (D23; log 3): `RND Vx, kk` writes the drawn byte, a free value, masked by kk to V[x], and
changes nothing else of the spec's state; a mask of 0 gives 0 whatever the draw. -/
def Obligations.RandomByteIsMasked : Prop :=
  ∀ (x : Reg) (kk : Byte) (s : State), ∃ t, exec (.rnd x kk) s = .next t ∧
    t.reg x = Config.randomByte s.draws &&& kk ∧ (kk = 0 → t.reg x = 0) ∧
    (∀ r, r ≠ x → t.reg r = s.reg r) ∧ t = { s with v := t.v, draws := s.draws + 1 }

/-! ### Keypad and timers -/

/-- R93, R94 (D20 for the fault): `SKP` and `SKNP` add 2 to PC when the key V[x] names is down, or is not,
and change nothing else; V[x] above 15 raises `KeyIndexOutOfRange`. -/
def Obligations.SkipsOnKey : Prop :=
  ∀ (x : Reg) (s : State),
    (∀ k : Reg, (s.reg x).toNat = k.val →
      exec (.skp x) s = .next { s with pc := if s.key[k] = true then s.pc + 2 else s.pc } ∧
      exec (.sknp x) s = .next { s with pc := if s.key[k] = true then s.pc else s.pc + 2 }) ∧
    (15 < (s.reg x).toNat →
      exec (.skp x) s = .next (s.faultedWith (.keyIndexOutOfRange (s.reg x))) ∧
      exec (.sknp x) s = .next (s.faultedWith (.keyIndexOutOfRange (s.reg x))))

/-- R95, R97, R98: the timer instructions copy between V[x] and the timer, and change nothing else. -/
def Obligations.TimerInstructionsCopy : Prop :=
  ∀ (x : Reg) (s : State),
    (∃ t, exec (.ldVxDt x) s = .next t ∧ OnlyReg s t x s.dt) ∧
    exec (.ldDtVx x) s = .next { s with dt := s.reg x } ∧
    exec (.ldStVx x) s = .next { s with st := s.reg x }

/-- R96 (D21): `LD Vx, K` begins the wait and does not look at the keypad or write V[x]. -/
def Obligations.WaitForKeyOnlyBegins : Prop :=
  ∀ (x : Reg) (s : State),
    exec (.ldVxK x) s = .next { s with awaitingKey := true, awaitReg := x }

/-! ### Index register and memory -/

/-- R99 (D5; log 10): `LD I, nnn` sets I to nnn and changes nothing else. -/
def Obligations.LoadIndexSetsI : Prop :=
  ∀ (nnn : Imm12) (s : State), exec (.ldI nnn) s = .next { s with index := nnn.setWidth 16 }

/-- R100 (D14; log 19): `ADD I, Vx` adds V[x] to I modulo 65536 and changes nothing else: no flag. -/
def Obligations.AddIndexWrapsAtSixteenBits : Prop :=
  ∀ (x : Reg) (s : State), ∃ t, exec (.addI x) s = .next t ∧
    t.index.toNat = (s.index.toNat + (s.reg x).toNat) % 0x10000 ∧ t = { s with index := t.index }

/-- R101: `LD F, Vx` sets I to 0x050 + 5 V[x], with V[x] not masked, and changes nothing else. -/
def Obligations.GlyphAddressIsFiveTimesVx : Prop :=
  ∀ (x : Reg) (s : State), ∃ t, exec (.ldF x) s = .next t ∧
    t.index.toNat = 0x050 + (s.reg x).toNat * 5 ∧ t = { s with index := t.index }

/-- R102 (D3, log 12, for the digits' order; D13 for the fault): `LD B, Vx` stores the three digits at I,
I + 1 and I + 2, and every other byte reads as before; a range past 0xFFF raises `MemOutOfBounds(I + 2)`. -/
def Obligations.BcdStoresThreeDigits : Prop :=
  ∀ (x : Reg) (s : State),
    (s.index.toNat + 2 ≤ 0xFFF → ∃ t, exec (.ldB x) s = .next t ∧
      (t.byteAt s.index.toNat).toNat = (s.reg x).toNat / 100 ∧
      (t.byteAt (s.index.toNat + 1)).toNat = (s.reg x).toNat / 10 % 10 ∧
      (t.byteAt (s.index.toNat + 2)).toNat = (s.reg x).toNat % 10 ∧
      (∀ a, a < s.index.toNat ∨ s.index.toNat + 2 < a → t.byteAt a = s.byteAt a) ∧
      t = { s with mem := t.mem }) ∧
    (0xFFF < s.index.toNat + 2 →
      exec (.ldB x) s = .next (s.faultedWith (.memOutOfBounds (s.index.toNat + 2))))

/-- R103 (D13 for the fault, D22 for I): `LD [I], Vx` stores V0 to Vx at I to I + x, and every other byte
reads as before; a range past 0xFFF raises `MemOutOfBounds(I + x)`. -/
def Obligations.StoreRegistersToMemory : Prop :=
  ∀ (x : Reg) (s : State),
    (s.index.toNat + x.val ≤ 0xFFF → ∃ t, exec (.storeRegs x) s = .next t ∧
      (∀ r : Reg, r ≤ x → t.byteAt (s.index.toNat + r.val) = s.reg r) ∧
      (∀ a, a < s.index.toNat ∨ s.index.toNat + x.val < a → t.byteAt a = s.byteAt a) ∧
      t = { s with mem := t.mem }) ∧
    (0xFFF < s.index.toNat + x.val →
      exec (.storeRegs x) s = .next (s.faultedWith (.memOutOfBounds (s.index.toNat + x.val))))

/-- R104 (D13 for the fault, D22 for I): `LD Vx, [I]` loads V0 to Vx from I to I + x and leaves the
registers above x; a range past 0xFFF raises `MemOutOfBounds(I + x)`. -/
def Obligations.LoadRegistersFromMemory : Prop :=
  ∀ (x : Reg) (s : State),
    (s.index.toNat + x.val ≤ 0xFFF → ∃ t, exec (.loadRegs x) s = .next t ∧
      (∀ r : Reg, r ≤ x → t.reg r = s.byteAt (s.index.toNat + r.val)) ∧
      (∀ r : Reg, x < r → t.reg r = s.reg r) ∧
      t = { s with v := t.v }) ∧
    (0xFFF < s.index.toNat + x.val →
      exec (.loadRegs x) s = .next (s.faultedWith (.memOutOfBounds (s.index.toNat + x.val))))

/-! ### Display -/

/-- R69: `CLS` turns every pixel off and changes nothing else. -/
def Obligations.ClearTurnsEveryPixelOff : Prop :=
  ∀ s : State, ∃ t, exec .cls s = .next t ∧ (∀ r c, t.fb.pixel r c = false) ∧
    t = { s with fb := t.fb }

/-- R70 (D2, log 11, for the bit order; D18, log 18, for VF = 0; D19, log 17, for VF last): a draw whose
bytes and rows fit inverts exactly the covered pixels, sets VF to 1 if a covered pixel was on and to 0 if
not, and changes nothing else. -/
def Obligations.DrawInvertsCoveredPixels : Prop :=
  ∀ (x y : Reg) (n : Nibble) (s : State), s.bytesFit n.toNat → s.rowsFit y n →
    ∃ t, exec (.drw x y n) s = .next t ∧
      (∀ r c, t.fb.pixel r c = (s.fb.pixel r c ^^ s.covers .fault x y n r c)) ∧
      ((∃ r c, s.covers .fault x y n r c = true ∧ s.fb.pixel r c = true) → t.reg 15 = 1) ∧
      ((∀ r c, s.covers .fault x y n r c = true → s.fb.pixel r c = false) → t.reg 15 = 0) ∧
      (∀ r, r ≠ 15 → t.reg r = s.reg r) ∧ t = { s with v := t.v, fb := t.fb }

/-- R70, R109 (D8, D13, D17): a draw whose bytes pass 0xFFF raises `MemOutOfBounds(I + n - 1)`; one whose
bytes fit and whose rows pass row 31 raises `DrawRowOverflow(y0 + n - 1)`. -/
def Obligations.DrawOutOfRangeFaults : Prop :=
  ∀ (x y : Reg) (n : Nibble) (s : State),
    (¬ s.bytesFit n.toNat →
      exec (.drw x y n) s =
        .next (s.faultedWith (.memOutOfBounds (s.index.toNat + n.toNat - 1)))) ∧
    (s.bytesFit n.toNat → ¬ s.rowsFit y n →
      exec (.drw x y n) s =
        .next (s.faultedWith (.drawRowOverflow ((s.reg y).toNat % 32 + n.toNat - 1))))

/-- R70 (`DRAW_ROW_POLICY`; log 6): under `clip` rows past 31 are not drawn, under `wrap` they are drawn
modulo 32, and no row faults. The parameter is the spec's D17; the bit order is PRESUMED from its D2
(log 11), VF = 0 and VF written last are its D18 and D19 (logs 18, 17). -/
def Obligations.DrawUnderClipAndWrap : Prop :=
  ∀ (policy : Config.RowPolicy) (x y : Reg) (n : Nibble) (s : State), policy ≠ .fault →
    s.bytesFit n.toNat →
    ∃ t, State.drawUnder policy s x y n = .next t ∧
      (∀ r c, t.fb.pixel r c = (s.fb.pixel r c ^^ s.covers policy x y n r c)) ∧
      ((∃ r c, s.covers policy x y n r c = true ∧ s.fb.pixel r c = true) → t.reg 15 = 1) ∧
      ((∀ r c, s.covers policy x y n r c = true → s.fb.pixel r c = false) → t.reg 15 = 0) ∧
      (∀ r, r ≠ 15 → t.reg r = s.reg r) ∧ t = { s with v := t.v, fb := t.fb }

/-- R70 (the source's property S4): the same draw twice at the same place gives the first framebuffer
back, and the second draw sets VF exactly when some covered pixel was off before both, as R70's
pseudocode says (log 33). Which pixels are covered takes the bit order PRESUMED from the spec's D2 (log 11);
VF = 0 and VF written last are its D18 and D19 (logs 18, 17). The coordinates' registers are not VF, which
the first draw writes. -/
def Obligations.DrawTwiceRestoresTheScreen : Prop :=
  ∀ (x y : Reg) (n : Nibble) (s : State), x ≠ 15 → y ≠ 15 → s.bytesFit n.toNat → s.rowsFit y n →
    ∃ t u, exec (.drw x y n) s = .next t ∧ exec (.drw x y n) t = .next u ∧ u.fb = s.fb ∧
      (u.reg 15 = 1 ↔ ∃ r c, s.covers .fault x y n r c = true ∧ s.fb.pixel r c = false)

/-! ### Frames -/

/-- R13, R15, R46: an instruction changes no register but its destination, and VF where it writes a flag. -/
def Obligations.RegistersOutsideTheDestinationKeep : Prop :=
  ∀ (i : Instr) (s t : State), exec i s = .next t →
    ∀ r, i.writesReg r = false → t.reg r = s.reg r

/-- R31, R46: an instruction changes no byte of memory outside those it stores to, which start at I; for
one that stores nothing every byte reads as before. -/
def Obligations.BytesOutsideTheStoreKeep : Prop :=
  ∀ (i : Instr) (s t : State), exec i s = .next t →
    ∀ a, a < s.index.toNat ∨ s.index.toNat + i.storeLength ≤ a → t.byteAt a = s.byteAt a

/-- R18, R19, R20, R21, R22, R23, R25, R26: which instructions change the index register, the stack, SP,
the timers, the wait state and the model's count of draws, and that none changes the keypad or the
latched word. -/
def Obligations.SpecialStateHasItsOwnWriters : Prop :=
  ∀ (i : Instr) (s t : State), exec i s = .next t →
    (t.index ≠ s.index → (∃ nnn, i = .ldI nnn) ∨ (∃ x, i = .addI x) ∨ (∃ x, i = .ldF x)) ∧
    (t.stack ≠ s.stack → ∃ nnn, i = .call nnn) ∧
    (t.sp ≠ s.sp → (∃ nnn, i = .call nnn) ∨ i = .ret) ∧
    (t.dt ≠ s.dt → ∃ x, i = .ldDtVx x) ∧ (t.st ≠ s.st → ∃ x, i = .ldStVx x) ∧
    (t.awaitingKey ≠ s.awaitingKey ∨ t.awaitReg ≠ s.awaitReg → ∃ x, i = .ldVxK x) ∧
    (t.draws ≠ s.draws → ∃ x kk, i = .rnd x kk) ∧ t.key = s.key ∧ t.opcode = s.opcode

/-- R118: `ReadFramebuffer()` gives the grid of pixel words; only `CLS` and `DRW` write the framebuffer;
and no instruction but `DRW` reads it: what any other leaves outside it does not depend on it, given the same
draw (log 34). -/
def Obligations.FramebufferReadersAndWriters : Prop :=
  (∀ (s : State) (r : Fin 32) (c : Fin 64),
    s.readFramebuffer[r][c] = if s.fb.pixel r c = true then 0xFFFFFFFF else 0x00000000) ∧
  (∀ (i : Instr) (s t : State), exec i s = .next t → t.fb ≠ s.fb →
    i = .cls ∨ ∃ x y n, i = .drw x y n) ∧
  (∀ (i : Instr) (s t : State) (fb : Framebuffer), (∀ x y n, i ≠ .drw x y n) →
    exec i s = .next t →
    ∃ t', exec i { s with fb := fb } = .next t' ∧ { t' with fb := t.fb } = t)

/-- R22: no instruction reads the sound timer: what it leaves outside it does not depend on it, given the
same draw (log 34). -/
def Obligations.SoundTimerIsNeverRead : Prop :=
  ∀ (i : Instr) (s t : State) (b : Byte), exec i s = .next t →
    ∃ t', exec i { s with st := b } = .next t' ∧ { t' with st := t.st } = t

/-- R21, R22, R23, R115: no step changes a key or decrements a timer: DT and ST change only to the register
value that `LD DT, Vx` or `LD ST, Vx` copies. The fetch is big-endian, PRESUMED from the spec's D1 (R35,
R60; log 8), and the words are the spec's D4 (log 9). -/
def Obligations.StepNeverTicksOrTouchesKeys : Prop :=
  ∀ s t : State, step s = .next t →
    t.key = s.key ∧
    (t.dt ≠ s.dt → ∃ w x, s.Fetches w ∧ decode w = .ok (.ldDtVx x) ∧ t.dt = s.reg x) ∧
    (t.st ≠ s.st → ∃ w x, s.Fetches w ∧ decode w = .ok (.ldStVx x) ∧ t.st = s.reg x)

/-! ### The host's transactions -/

/-- R115, R117 (D27): `Tick()` takes 1 from each nonzero timer and `SetKey(k, b)` sets one slot; each
changes nothing else, on any core. -/
def Obligations.TickAndSetKey : Prop :=
  ∀ s : State,
    (s.tick.dt.toNat = s.dt.toNat - 1 ∧ s.tick.st.toNat = s.st.toNat - 1 ∧
      s.tick = { s with dt := s.tick.dt, st := s.tick.st }) ∧
    (∀ (k : Reg) (b : Bool),
      (∀ j : Reg, (s.setKey k b).key[j] = if j = k then b else s.key[j]) ∧
        s.setKey k b = { s with key := (s.setKey k b).key })

/-- R126 (D28): `LoadRom` of at most 3584 bytes puts them from 0x200 on and changes nothing else; a longer
one changes nothing. -/
def Obligations.LoadRomIsAllOrNothing : Prop :=
  ∀ (s : State) (bytes : List Byte),
    (bytes.length ≤ 3584 → (s.loadRom bytes).2 = .loaded ∧
      (∀ k, k < bytes.length → some ((s.loadRom bytes).1.byteAt (0x200 + k)) = bytes[k]?) ∧
      (∀ a, a < 0x200 ∨ 0x200 + bytes.length ≤ a → (s.loadRom bytes).1.byteAt a = s.byteAt a) ∧
      (s.loadRom bytes).1 = { s with mem := (s.loadRom bytes).1.mem }) ∧
    (3584 < bytes.length → s.loadRom bytes = (s, .romTooLarge))
end

