-- ==== Sys2Proof/Laws/Decode.lean ====
section
/-! SUPPORT. The fields of the words the encoder packs, and what the table's masks leave of them. -/

namespace Sys2Proof

/-! ### Fields -/

@[simp] theorem toFin_regNibble (r : Reg) : (regNibble r).toFin = r := rfl

theorem extract_packXYN (op : Nibble) (x y : Reg) (n : Nibble) :
    (packXYN op x y n).extractLsb' 12 4 = op ∧ (packXYN op x y n).extractLsb' 8 4 = regNibble x ∧
      (packXYN op x y n).extractLsb' 4 4 = regNibble y ∧ (packXYN op x y n).extractLsb' 0 4 = n := by
  refine ⟨?_, ?_, ?_, ?_⟩ <;>
  · apply BitVec.eq_of_getLsbD_eq
    intro k hk
    simp only [packXYN, BitVec.getLsbD_append, BitVec.getLsbD_extractLsb', hk, decide_true,
      Bool.true_and]
    split <;> (try split) <;> (try split) <;> first | omega | (congr 1; omega)

theorem extract_packXKK (op : Nibble) (x : Reg) (kk : Byte) :
    (packXKK op x kk).extractLsb' 12 4 = op ∧ (packXKK op x kk).extractLsb' 8 4 = regNibble x ∧
      (packXKK op x kk).extractLsb' 0 8 = kk := by
  refine ⟨?_, ?_, ?_⟩ <;>
  · apply BitVec.eq_of_getLsbD_eq
    intro k hk
    simp only [packXKK, BitVec.getLsbD_append, BitVec.getLsbD_extractLsb', hk, decide_true,
      Bool.true_and]
    split <;> (try split) <;> first | omega | (congr 1; omega)

theorem extract_packNNN (op : Nibble) (nnn : Imm12) :
    (packNNN op nnn).extractLsb' 12 4 = op ∧ (packNNN op nnn).extractLsb' 0 12 = nnn := by
  refine ⟨?_, ?_⟩ <;>
  · apply BitVec.eq_of_getLsbD_eq
    intro k hk
    simp only [packNNN, BitVec.getLsbD_append, BitVec.getLsbD_extractLsb', hk, decide_true,
      Bool.true_and]
    split <;> first | omega | (congr 1; omega)

@[simp] theorem opField_packXYN (op : Nibble) (x y : Reg) (n : Nibble) :
    opField (packXYN op x y n) = op.toNat := by rw [opField, (extract_packXYN op x y n).1]

@[simp] theorem xField_packXYN (op : Nibble) (x y : Reg) (n : Nibble) :
    xField (packXYN op x y n) = x := by rw [xField, (extract_packXYN op x y n).2.1]; rfl

@[simp] theorem yField_packXYN (op : Nibble) (x y : Reg) (n : Nibble) :
    yField (packXYN op x y n) = y := by rw [yField, (extract_packXYN op x y n).2.2.1]; rfl

@[simp] theorem nField_packXYN (op : Nibble) (x y : Reg) (n : Nibble) :
    nField (packXYN op x y n) = n := by rw [nField, (extract_packXYN op x y n).2.2.2]

@[simp] theorem opField_packXKK (op : Nibble) (x : Reg) (kk : Byte) :
    opField (packXKK op x kk) = op.toNat := by rw [opField, (extract_packXKK op x kk).1]

@[simp] theorem xField_packXKK (op : Nibble) (x : Reg) (kk : Byte) :
    xField (packXKK op x kk) = x := by rw [xField, (extract_packXKK op x kk).2.1]; rfl

@[simp] theorem kkField_packXKK (op : Nibble) (x : Reg) (kk : Byte) :
    kkField (packXKK op x kk) = kk := by rw [kkField, (extract_packXKK op x kk).2.2]

@[simp] theorem opField_packNNN (op : Nibble) (nnn : Imm12) :
    opField (packNNN op nnn) = op.toNat := by rw [opField, (extract_packNNN op nnn).1]

@[simp] theorem nnnField_packNNN (op : Nibble) (nnn : Imm12) :
    nnnField (packNNN op nnn) = nnn := by rw [nnnField, (extract_packNNN op nnn).2]

/-- The low byte of an `nnn` word (R51). -/
@[simp] theorem toNat_kkField_packNNN (op : Nibble) (nnn : Imm12) :
    (kkField (packNNN op nnn)).toNat = nnn.toNat % 256 := by
  simp only [kkField, packNNN, BitVec.extractLsb'_toNat, BitVec.toNat_append, Nat.shiftRight_zero]
  rw [← Nat.shiftLeft_add_eq_or_of_lt nnn.isLt, Nat.shiftLeft_eq]
  omega

/-! ### The table's masks -/

theorem packNNN_and_op (op : Nibble) (nnn : Imm12) :
    packNNN op nnn &&& 0xF000 = op ++ 0#12 := by
  rw [packNNN, show (0xF000 : Word) = (0xF : Nibble) ++ 0#12 from rfl, BitVec.and_append,
    show (0xF : Nibble) = BitVec.allOnes 4 from rfl, BitVec.and_allOnes, BitVec.and_zero]

theorem packXKK_and_op (op : Nibble) (x : Reg) (kk : Byte) :
    packXKK op x kk &&& 0xF000 = op ++ 0#4 ++ 0#8 := by
  rw [packXKK, show (0xF000 : Word) = (0xF : Nibble) ++ 0#4 ++ 0#8 from rfl,
    BitVec.and_append, BitVec.and_append, show (0xF : Nibble) = BitVec.allOnes 4 from rfl,
    BitVec.and_allOnes, BitVec.and_zero, BitVec.and_zero]

theorem packXKK_and_op_kk (op : Nibble) (x : Reg) (kk : Byte) :
    packXKK op x kk &&& 0xF0FF = op ++ 0#4 ++ kk := by
  rw [packXKK, show (0xF0FF : Word) = (0xF : Nibble) ++ 0#4 ++ (0xFF : Byte) from rfl,
    BitVec.and_append, BitVec.and_append, show (0xF : Nibble) = BitVec.allOnes 4 from rfl,
    show (0xFF : Byte) = BitVec.allOnes 8 from rfl, BitVec.and_allOnes, BitVec.and_allOnes,
    BitVec.and_zero]

theorem packXYN_and_op (op : Nibble) (x y : Reg) (n : Nibble) :
    packXYN op x y n &&& 0xF000 = op ++ 0#4 ++ 0#4 ++ 0#4 := by
  rw [packXYN,
    show (0xF000 : Word) = (0xF : Nibble) ++ 0#4 ++ 0#4 ++ 0#4 from rfl,
    BitVec.and_append, BitVec.and_append, BitVec.and_append,
    show (0xF : Nibble) = BitVec.allOnes 4 from rfl, BitVec.and_allOnes, BitVec.and_zero,
    BitVec.and_zero, BitVec.and_zero]

theorem packXYN_and_op_n (op : Nibble) (x y : Reg) (n : Nibble) :
    packXYN op x y n &&& 0xF00F = op ++ 0#4 ++ 0#4 ++ n := by
  rw [packXYN,
    show (0xF00F : Word) = (0xF : Nibble) ++ 0#4 ++ 0#4 ++ (0xF : Nibble) from rfl,
    BitVec.and_append, BitVec.and_append, BitVec.and_append,
    show (0xF : Nibble) = BitVec.allOnes 4 from rfl, BitVec.and_allOnes, BitVec.and_allOnes,
    BitVec.and_zero, BitVec.and_zero]

end Sys2Proof
end

