-- ==== Sys2Proof/Laws/Memory.lean ====
section
/-! SUPPORT. The laws of memory: a read after a write, other places left alone, the canonical form kept. -/

namespace Sys2Proof.Machine

/-! ### Reading -/

@[simp] theorem Memory.read_nil (a : Nat) : Memory.read [] a = initialByte a := rfl

theorem Memory.read_cons (c : Host.Cell) (m : Memory) (a : Nat) :
    Memory.read (c :: m) a = if c.1 = a then c.2 else Memory.read m a := rfl

/-- Dropping the cells of `a` leaves every other address alone, and `a` unlisted. -/
theorem Memory.read_filter (m : Memory) (a b : Nat) :
    Memory.read (m.filter (fun c => c.1 != a)) b =
      if b = a then initialByte a else Memory.read m b := by
  induction m with
  | nil => by_cases h : b = a <;> simp [h]
  | cons c m ih =>
    by_cases hc : c.1 = a
    · simp only [List.filter_cons, hc, bne_self_eq_false, Bool.false_eq_true, if_false, ih,
        Memory.read_cons]
      by_cases h : b = a
      · simp [h]
      · simp [h, Ne.symm h]
    · simp only [List.filter_cons, bne_iff_ne, ne_eq, hc, not_false_eq_true, if_true,
        Memory.read_cons, ih]
      by_cases h : c.1 = b
      · simp [h, show b ≠ a from fun e => hc (h.trans e)]
      · simp [h]

/-- Where the cell's address is unlisted, inserting it changes that address alone. -/
theorem Memory.read_insertCell (m : Memory) (c : Host.Cell) (b : Nat)
    (h : ∀ d ∈ m, d.1 ≠ c.1) :
    Memory.read (m.insertCell c) b = if c.1 = b then c.2 else Memory.read m b := by
  induction m with
  | nil => rfl
  | cons d m ih =>
    have hd : d.1 ≠ c.1 := h d (by simp)
    have hm := ih (fun e he => h e (by simp [he]))
    unfold Memory.insertCell
    split
    · rfl
    · simp only [Memory.read_cons, hm]
      by_cases hb : d.1 = b
      · simp [hb, show c.1 ≠ b from fun e => hd (hb.trans e.symm)]
      · simp [hb]

/-- A write changes the byte written and no other. -/
theorem Memory.read_write (m : Memory) (a : Nat) (v : Byte) (b : Nat) :
    Memory.read (m.write a v) b = if b = a then v else Memory.read m b := by
  unfold Memory.write
  split
  · rename_i h
    rw [Memory.read_filter, h]
  · rw [Memory.read_insertCell _ _ _ (by simp), Memory.read_filter]
    by_cases h : b = a
    · simp [h]
    · simp [h, Ne.symm h]

@[simp] theorem Memory.read_write_same (m : Memory) (a : Nat) (v : Byte) :
    Memory.read (m.write a v) a = v := by simp [Memory.read_write]

theorem Memory.read_write_other (m : Memory) (a : Nat) (v : Byte) {b : Nat} (h : b ≠ a) :
    Memory.read (m.write a v) b = Memory.read m b := by simp [Memory.read_write, h]

/-- A multi-byte write changes the bytes of its range and no other. -/
theorem Memory.read_writeBytes (m : Memory) (a : Nat) (bytes : List Byte) (b : Nat) :
    Memory.read (m.writeBytes a bytes) b =
      if a ≤ b ∧ b < a + bytes.length then bytes.getD (b - a) 0 else Memory.read m b := by
  induction bytes generalizing m a with
  | nil =>
    have : ¬ (a ≤ b ∧ b < a) := by omega
    simp [Memory.writeBytes, this]
  | cons v rest ih =>
    simp only [Memory.writeBytes, ih, Memory.read_write, List.length_cons]
    by_cases h : b = a
    · subst h
      simp
    · by_cases h2 : a + 1 ≤ b ∧ b < a + 1 + rest.length
      · have h3 : a ≤ b ∧ b < a + (rest.length + 1) := by omega
        have h4 : b - a = (b - (a + 1)) + 1 := by omega
        simp [h2, h3, h4]
      · have h3 : ¬ (a ≤ b ∧ b < a + (rest.length + 1)) := by omega
        rw [if_neg h2, if_neg h, if_neg h3]

theorem Memory.read_writeBytes_outside (m : Memory) (a : Nat) (bytes : List Byte) {b : Nat}
    (h : b < a ∨ a + bytes.length ≤ b) :
    Memory.read (m.writeBytes a bytes) b = Memory.read m b := by
  rw [Memory.read_writeBytes, if_neg (by omega)]

/-! ### The canonical form -/

/-- Every cell is inside the address space and differs from the reset content there. -/
def Memory.cellsOk (m : Memory) : Bool :=
  m.all (fun c => decide (c.1 < Config.memSize) && decide (c.2 ≠ initialByte c.1))

theorem Memory.wf_iff (m : Memory) :
    m.wf = true ↔ Memory.risesFrom 0 m = true ∧ m.cellsOk = true := by
  simp [Memory.wf, Memory.cellsOk]

theorem Memory.risesFrom_mono {low low' : Nat} (h : low' ≤ low) {m : Memory}
    (hm : Memory.risesFrom low m = true) : Memory.risesFrom low' m = true := by
  cases m with
  | nil => rfl
  | cons c m =>
    simp only [Memory.risesFrom, Bool.and_eq_true, decide_eq_true_eq] at hm ⊢
    exact ⟨by omega, hm.2⟩

theorem Memory.risesFrom_filter {low : Nat} {m : Memory} (p : Host.Cell → Bool)
    (hm : Memory.risesFrom low m = true) : Memory.risesFrom low (m.filter p) = true := by
  induction m generalizing low with
  | nil => rfl
  | cons c m ih =>
    simp only [Memory.risesFrom, Bool.and_eq_true, decide_eq_true_eq] at hm
    rw [List.filter_cons]
    split
    · simp only [Memory.risesFrom, Bool.and_eq_true, decide_eq_true_eq]
      exact ⟨hm.1, ih hm.2⟩
    · exact Memory.risesFrom_mono (by omega) (ih hm.2)

theorem Memory.risesFrom_insertCell {low : Nat} {m : Memory} {c : Host.Cell} (hc : low ≤ c.1)
    (hn : ∀ d ∈ m, d.1 ≠ c.1) (hm : Memory.risesFrom low m = true) :
    Memory.risesFrom low (m.insertCell c) = true := by
  induction m generalizing low with
  | nil => simpa [Memory.insertCell, Memory.risesFrom] using hc
  | cons d m ih =>
    simp only [Memory.risesFrom, Bool.and_eq_true, decide_eq_true_eq] at hm
    have hd : d.1 ≠ c.1 := hn d (by simp)
    unfold Memory.insertCell
    split
    · simp only [Memory.risesFrom, Bool.and_eq_true, decide_eq_true_eq]
      exact ⟨hc, by omega, hm.2⟩
    · simp only [Memory.risesFrom, Bool.and_eq_true, decide_eq_true_eq]
      exact ⟨hm.1, ih (by omega) (fun e he => hn e (by simp [he])) hm.2⟩

theorem Memory.mem_insertCell {m : Memory} {c d : Host.Cell} (h : d ∈ m.insertCell c) :
    d = c ∨ d ∈ m := by
  induction m with
  | nil => simpa [Memory.insertCell] using h
  | cons e m ih =>
    unfold Memory.insertCell at h
    split at h
    · simpa using h
    · rcases List.mem_cons.mp h with h | h
      · simp [h]
      · rcases ih h with h | h <;> simp [h]

/-- A write inside the address space keeps the canonical form. -/
theorem Memory.write_wf {m : Memory} {a : Nat} {v : Byte} (hm : m.wf = true)
    (ha : a < Config.memSize) : (m.write a v).wf = true := by
  rw [Memory.wf_iff] at hm ⊢
  have hf : Memory.cellsOk (m.filter (fun c => c.1 != a)) = true := by
    have := hm.2
    simp only [Memory.cellsOk, List.all_eq_true, List.mem_filter] at this ⊢
    exact fun c hc => this c hc.1
  unfold Memory.write
  split
  · exact ⟨Memory.risesFrom_filter _ hm.1, hf⟩
  · rename_i hv
    refine ⟨Memory.risesFrom_insertCell (by omega) (by simp) (Memory.risesFrom_filter _ hm.1), ?_⟩
    simp only [Memory.cellsOk, List.all_eq_true] at hf ⊢
    intro c hc
    rcases Memory.mem_insertCell hc with rfl | hc
    · simp [ha, hv]
    · exact hf c hc

/-- A multi-byte write inside the address space keeps the canonical form. -/
theorem Memory.writeBytes_wf {m : Memory} {a : Nat} {bytes : List Byte} (hm : m.wf = true)
    (ha : a + bytes.length ≤ Config.memSize) : (m.writeBytes a bytes).wf = true := by
  induction bytes generalizing m a with
  | nil => exact hm
  | cons v rest ih =>
    simp only [List.length_cons] at ha
    exact ih (Memory.write_wf hm (by omega)) (by omega)

/-- Memory after reset is in canonical form. -/
theorem Memory.reset_wf : State.reset.mem.wf = true := rfl

end Sys2Proof.Machine
end

