-- ==== Sys2Proof/Laws/State.lean ====
section
/-! SUPPORT. For each named update of the state, what each field is afterwards. -/

namespace Sys2Proof.Machine

section SetReg

variable (s : State) (x : Reg) (b : Byte)

@[simp] theorem State.setReg_v : (s.setReg x b).v = s.v.set x b := rfl
@[simp] theorem State.setReg_pc : (s.setReg x b).pc = s.pc := rfl
@[simp] theorem State.setReg_index : (s.setReg x b).index = s.index := rfl
@[simp] theorem State.setReg_stack : (s.setReg x b).stack = s.stack := rfl
@[simp] theorem State.setReg_sp : (s.setReg x b).sp = s.sp := rfl
@[simp] theorem State.setReg_dt : (s.setReg x b).dt = s.dt := rfl
@[simp] theorem State.setReg_st : (s.setReg x b).st = s.st := rfl
@[simp] theorem State.setReg_key : (s.setReg x b).key = s.key := rfl
@[simp] theorem State.setReg_fb : (s.setReg x b).fb = s.fb := rfl
@[simp] theorem State.setReg_mem : (s.setReg x b).mem = s.mem := rfl
@[simp] theorem State.setReg_opcode : (s.setReg x b).opcode = s.opcode := rfl
@[simp] theorem State.setReg_awaitingKey : (s.setReg x b).awaitingKey = s.awaitingKey := rfl
@[simp] theorem State.setReg_awaitReg : (s.setReg x b).awaitReg = s.awaitReg := rfl
@[simp] theorem State.setReg_fault : (s.setReg x b).fault = s.fault := rfl
@[simp] theorem State.setReg_draws : (s.setReg x b).draws = s.draws := rfl

end SetReg

section SetPc

variable (s : State) (p : Word)

@[simp] theorem State.setPc_v : (s.setPc p).v = s.v := rfl
@[simp] theorem State.setPc_pc : (s.setPc p).pc = p := rfl
@[simp] theorem State.setPc_index : (s.setPc p).index = s.index := rfl
@[simp] theorem State.setPc_stack : (s.setPc p).stack = s.stack := rfl
@[simp] theorem State.setPc_sp : (s.setPc p).sp = s.sp := rfl
@[simp] theorem State.setPc_dt : (s.setPc p).dt = s.dt := rfl
@[simp] theorem State.setPc_st : (s.setPc p).st = s.st := rfl
@[simp] theorem State.setPc_key : (s.setPc p).key = s.key := rfl
@[simp] theorem State.setPc_fb : (s.setPc p).fb = s.fb := rfl
@[simp] theorem State.setPc_mem : (s.setPc p).mem = s.mem := rfl
@[simp] theorem State.setPc_opcode : (s.setPc p).opcode = s.opcode := rfl
@[simp] theorem State.setPc_awaitingKey : (s.setPc p).awaitingKey = s.awaitingKey := rfl
@[simp] theorem State.setPc_awaitReg : (s.setPc p).awaitReg = s.awaitReg := rfl
@[simp] theorem State.setPc_fault : (s.setPc p).fault = s.fault := rfl
@[simp] theorem State.setPc_draws : (s.setPc p).draws = s.draws := rfl

end SetPc

section SetIndex

variable (s : State) (a : Word)

@[simp] theorem State.setIndex_v : (s.setIndex a).v = s.v := rfl
@[simp] theorem State.setIndex_pc : (s.setIndex a).pc = s.pc := rfl
@[simp] theorem State.setIndex_index : (s.setIndex a).index = a := rfl
@[simp] theorem State.setIndex_stack : (s.setIndex a).stack = s.stack := rfl
@[simp] theorem State.setIndex_sp : (s.setIndex a).sp = s.sp := rfl
@[simp] theorem State.setIndex_dt : (s.setIndex a).dt = s.dt := rfl
@[simp] theorem State.setIndex_st : (s.setIndex a).st = s.st := rfl
@[simp] theorem State.setIndex_key : (s.setIndex a).key = s.key := rfl
@[simp] theorem State.setIndex_fb : (s.setIndex a).fb = s.fb := rfl
@[simp] theorem State.setIndex_mem : (s.setIndex a).mem = s.mem := rfl
@[simp] theorem State.setIndex_opcode : (s.setIndex a).opcode = s.opcode := rfl
@[simp] theorem State.setIndex_awaitingKey : (s.setIndex a).awaitingKey = s.awaitingKey := rfl
@[simp] theorem State.setIndex_awaitReg : (s.setIndex a).awaitReg = s.awaitReg := rfl
@[simp] theorem State.setIndex_fault : (s.setIndex a).fault = s.fault := rfl
@[simp] theorem State.setIndex_draws : (s.setIndex a).draws = s.draws := rfl

end SetIndex

section SetDt

variable (s : State) (b : Byte)

@[simp] theorem State.setDt_v : (s.setDt b).v = s.v := rfl
@[simp] theorem State.setDt_pc : (s.setDt b).pc = s.pc := rfl
@[simp] theorem State.setDt_index : (s.setDt b).index = s.index := rfl
@[simp] theorem State.setDt_stack : (s.setDt b).stack = s.stack := rfl
@[simp] theorem State.setDt_sp : (s.setDt b).sp = s.sp := rfl
@[simp] theorem State.setDt_dt : (s.setDt b).dt = b := rfl
@[simp] theorem State.setDt_st : (s.setDt b).st = s.st := rfl
@[simp] theorem State.setDt_key : (s.setDt b).key = s.key := rfl
@[simp] theorem State.setDt_fb : (s.setDt b).fb = s.fb := rfl
@[simp] theorem State.setDt_mem : (s.setDt b).mem = s.mem := rfl
@[simp] theorem State.setDt_opcode : (s.setDt b).opcode = s.opcode := rfl
@[simp] theorem State.setDt_awaitingKey : (s.setDt b).awaitingKey = s.awaitingKey := rfl
@[simp] theorem State.setDt_awaitReg : (s.setDt b).awaitReg = s.awaitReg := rfl
@[simp] theorem State.setDt_fault : (s.setDt b).fault = s.fault := rfl
@[simp] theorem State.setDt_draws : (s.setDt b).draws = s.draws := rfl

end SetDt

section SetSt

variable (s : State) (b : Byte)

@[simp] theorem State.setSt_v : (s.setSt b).v = s.v := rfl
@[simp] theorem State.setSt_pc : (s.setSt b).pc = s.pc := rfl
@[simp] theorem State.setSt_index : (s.setSt b).index = s.index := rfl
@[simp] theorem State.setSt_stack : (s.setSt b).stack = s.stack := rfl
@[simp] theorem State.setSt_sp : (s.setSt b).sp = s.sp := rfl
@[simp] theorem State.setSt_dt : (s.setSt b).dt = s.dt := rfl
@[simp] theorem State.setSt_st : (s.setSt b).st = b := rfl
@[simp] theorem State.setSt_key : (s.setSt b).key = s.key := rfl
@[simp] theorem State.setSt_fb : (s.setSt b).fb = s.fb := rfl
@[simp] theorem State.setSt_mem : (s.setSt b).mem = s.mem := rfl
@[simp] theorem State.setSt_opcode : (s.setSt b).opcode = s.opcode := rfl
@[simp] theorem State.setSt_awaitingKey : (s.setSt b).awaitingKey = s.awaitingKey := rfl
@[simp] theorem State.setSt_awaitReg : (s.setSt b).awaitReg = s.awaitReg := rfl
@[simp] theorem State.setSt_fault : (s.setSt b).fault = s.fault := rfl
@[simp] theorem State.setSt_draws : (s.setSt b).draws = s.draws := rfl

end SetSt

section CountDraw

variable (s : State)

@[simp] theorem State.countDraw_v : s.countDraw.v = s.v := rfl
@[simp] theorem State.countDraw_pc : s.countDraw.pc = s.pc := rfl
@[simp] theorem State.countDraw_index : s.countDraw.index = s.index := rfl
@[simp] theorem State.countDraw_stack : s.countDraw.stack = s.stack := rfl
@[simp] theorem State.countDraw_sp : s.countDraw.sp = s.sp := rfl
@[simp] theorem State.countDraw_dt : s.countDraw.dt = s.dt := rfl
@[simp] theorem State.countDraw_st : s.countDraw.st = s.st := rfl
@[simp] theorem State.countDraw_key : s.countDraw.key = s.key := rfl
@[simp] theorem State.countDraw_fb : s.countDraw.fb = s.fb := rfl
@[simp] theorem State.countDraw_mem : s.countDraw.mem = s.mem := rfl
@[simp] theorem State.countDraw_opcode : s.countDraw.opcode = s.opcode := rfl
@[simp] theorem State.countDraw_awaitingKey : s.countDraw.awaitingKey = s.awaitingKey := rfl
@[simp] theorem State.countDraw_awaitReg : s.countDraw.awaitReg = s.awaitReg := rfl
@[simp] theorem State.countDraw_fault : s.countDraw.fault = s.fault := rfl
@[simp] theorem State.countDraw_draws : s.countDraw.draws = s.draws + 1 := rfl

end CountDraw

section SetFb

variable (s : State) (fb : Framebuffer)

@[simp] theorem State.setFb_v : (s.setFb fb).v = s.v := rfl
@[simp] theorem State.setFb_pc : (s.setFb fb).pc = s.pc := rfl
@[simp] theorem State.setFb_index : (s.setFb fb).index = s.index := rfl
@[simp] theorem State.setFb_stack : (s.setFb fb).stack = s.stack := rfl
@[simp] theorem State.setFb_sp : (s.setFb fb).sp = s.sp := rfl
@[simp] theorem State.setFb_dt : (s.setFb fb).dt = s.dt := rfl
@[simp] theorem State.setFb_st : (s.setFb fb).st = s.st := rfl
@[simp] theorem State.setFb_key : (s.setFb fb).key = s.key := rfl
@[simp] theorem State.setFb_fb : (s.setFb fb).fb = fb := rfl
@[simp] theorem State.setFb_mem : (s.setFb fb).mem = s.mem := rfl
@[simp] theorem State.setFb_opcode : (s.setFb fb).opcode = s.opcode := rfl
@[simp] theorem State.setFb_awaitingKey : (s.setFb fb).awaitingKey = s.awaitingKey := rfl
@[simp] theorem State.setFb_awaitReg : (s.setFb fb).awaitReg = s.awaitReg := rfl
@[simp] theorem State.setFb_fault : (s.setFb fb).fault = s.fault := rfl
@[simp] theorem State.setFb_draws : (s.setFb fb).draws = s.draws := rfl

end SetFb

section StoreBytes

variable (s : State) (a : Nat) (bytes : List Byte)

@[simp] theorem State.storeBytes_v : (s.storeBytes a bytes).v = s.v := rfl
@[simp] theorem State.storeBytes_pc : (s.storeBytes a bytes).pc = s.pc := rfl
@[simp] theorem State.storeBytes_index : (s.storeBytes a bytes).index = s.index := rfl
@[simp] theorem State.storeBytes_stack : (s.storeBytes a bytes).stack = s.stack := rfl
@[simp] theorem State.storeBytes_sp : (s.storeBytes a bytes).sp = s.sp := rfl
@[simp] theorem State.storeBytes_dt : (s.storeBytes a bytes).dt = s.dt := rfl
@[simp] theorem State.storeBytes_st : (s.storeBytes a bytes).st = s.st := rfl
@[simp] theorem State.storeBytes_key : (s.storeBytes a bytes).key = s.key := rfl
@[simp] theorem State.storeBytes_fb : (s.storeBytes a bytes).fb = s.fb := rfl
@[simp] theorem State.storeBytes_mem : (s.storeBytes a bytes).mem = s.mem.writeBytes a bytes := rfl
@[simp] theorem State.storeBytes_opcode : (s.storeBytes a bytes).opcode = s.opcode := rfl
@[simp] theorem State.storeBytes_awaitingKey : (s.storeBytes a bytes).awaitingKey = s.awaitingKey := rfl
@[simp] theorem State.storeBytes_awaitReg : (s.storeBytes a bytes).awaitReg = s.awaitReg := rfl
@[simp] theorem State.storeBytes_fault : (s.storeBytes a bytes).fault = s.fault := rfl
@[simp] theorem State.storeBytes_draws : (s.storeBytes a bytes).draws = s.draws := rfl

end StoreBytes

section LoadRegsFrom

variable (s : State) (x : Reg) (a : Nat)

@[simp] theorem State.loadRegsFrom_v : (s.loadRegsFrom x a).v = Vector.ofFn (fun r : Reg => if r ≤ x then s.byteAt (a + r) else s.reg r) := rfl
@[simp] theorem State.loadRegsFrom_pc : (s.loadRegsFrom x a).pc = s.pc := rfl
@[simp] theorem State.loadRegsFrom_index : (s.loadRegsFrom x a).index = s.index := rfl
@[simp] theorem State.loadRegsFrom_stack : (s.loadRegsFrom x a).stack = s.stack := rfl
@[simp] theorem State.loadRegsFrom_sp : (s.loadRegsFrom x a).sp = s.sp := rfl
@[simp] theorem State.loadRegsFrom_dt : (s.loadRegsFrom x a).dt = s.dt := rfl
@[simp] theorem State.loadRegsFrom_st : (s.loadRegsFrom x a).st = s.st := rfl
@[simp] theorem State.loadRegsFrom_key : (s.loadRegsFrom x a).key = s.key := rfl
@[simp] theorem State.loadRegsFrom_fb : (s.loadRegsFrom x a).fb = s.fb := rfl
@[simp] theorem State.loadRegsFrom_mem : (s.loadRegsFrom x a).mem = s.mem := rfl
@[simp] theorem State.loadRegsFrom_opcode : (s.loadRegsFrom x a).opcode = s.opcode := rfl
@[simp] theorem State.loadRegsFrom_awaitingKey : (s.loadRegsFrom x a).awaitingKey = s.awaitingKey := rfl
@[simp] theorem State.loadRegsFrom_awaitReg : (s.loadRegsFrom x a).awaitReg = s.awaitReg := rfl
@[simp] theorem State.loadRegsFrom_fault : (s.loadRegsFrom x a).fault = s.fault := rfl
@[simp] theorem State.loadRegsFrom_draws : (s.loadRegsFrom x a).draws = s.draws := rfl

end LoadRegsFrom

section SetRegThenFlag

variable (s : State) (x : Reg) (b flag : Byte)

@[simp] theorem State.setRegThenFlag_v : (s.setRegThenFlag x b flag).v = (s.v.set x b).set vf flag := rfl
@[simp] theorem State.setRegThenFlag_pc : (s.setRegThenFlag x b flag).pc = s.pc := rfl
@[simp] theorem State.setRegThenFlag_index : (s.setRegThenFlag x b flag).index = s.index := rfl
@[simp] theorem State.setRegThenFlag_stack : (s.setRegThenFlag x b flag).stack = s.stack := rfl
@[simp] theorem State.setRegThenFlag_sp : (s.setRegThenFlag x b flag).sp = s.sp := rfl
@[simp] theorem State.setRegThenFlag_dt : (s.setRegThenFlag x b flag).dt = s.dt := rfl
@[simp] theorem State.setRegThenFlag_st : (s.setRegThenFlag x b flag).st = s.st := rfl
@[simp] theorem State.setRegThenFlag_key : (s.setRegThenFlag x b flag).key = s.key := rfl
@[simp] theorem State.setRegThenFlag_fb : (s.setRegThenFlag x b flag).fb = s.fb := rfl
@[simp] theorem State.setRegThenFlag_mem : (s.setRegThenFlag x b flag).mem = s.mem := rfl
@[simp] theorem State.setRegThenFlag_opcode : (s.setRegThenFlag x b flag).opcode = s.opcode := rfl
@[simp] theorem State.setRegThenFlag_awaitingKey : (s.setRegThenFlag x b flag).awaitingKey = s.awaitingKey := rfl
@[simp] theorem State.setRegThenFlag_awaitReg : (s.setRegThenFlag x b flag).awaitReg = s.awaitReg := rfl
@[simp] theorem State.setRegThenFlag_fault : (s.setRegThenFlag x b flag).fault = s.fault := rfl
@[simp] theorem State.setRegThenFlag_draws : (s.setRegThenFlag x b flag).draws = s.draws := rfl

end SetRegThenFlag

section TakeFault

variable (s : State) (k : FaultKind) (p : Word) (w : Option Word)

@[simp] theorem State.takeFault_v : (s.takeFault k p w).v = s.v := rfl
@[simp] theorem State.takeFault_pc : (s.takeFault k p w).pc = s.pc := rfl
@[simp] theorem State.takeFault_index : (s.takeFault k p w).index = s.index := rfl
@[simp] theorem State.takeFault_stack : (s.takeFault k p w).stack = s.stack := rfl
@[simp] theorem State.takeFault_sp : (s.takeFault k p w).sp = s.sp := rfl
@[simp] theorem State.takeFault_dt : (s.takeFault k p w).dt = s.dt := rfl
@[simp] theorem State.takeFault_st : (s.takeFault k p w).st = s.st := rfl
@[simp] theorem State.takeFault_key : (s.takeFault k p w).key = s.key := rfl
@[simp] theorem State.takeFault_fb : (s.takeFault k p w).fb = s.fb := rfl
@[simp] theorem State.takeFault_mem : (s.takeFault k p w).mem = s.mem := rfl
@[simp] theorem State.takeFault_opcode : (s.takeFault k p w).opcode = s.opcode := rfl
@[simp] theorem State.takeFault_awaitingKey : (s.takeFault k p w).awaitingKey = s.awaitingKey := rfl
@[simp] theorem State.takeFault_awaitReg : (s.takeFault k p w).awaitReg = s.awaitReg := rfl
@[simp] theorem State.takeFault_fault : (s.takeFault k p w).fault = some ⟨k, p, w⟩ := rfl
@[simp] theorem State.takeFault_draws : (s.takeFault k p w).draws = s.draws := rfl

end TakeFault

section Latch

variable (s : State) (w : Word)

@[simp] theorem State.latch_v : (s.latch w).v = s.v := rfl
@[simp] theorem State.latch_pc : (s.latch w).pc = s.pc + 2 := rfl
@[simp] theorem State.latch_index : (s.latch w).index = s.index := rfl
@[simp] theorem State.latch_stack : (s.latch w).stack = s.stack := rfl
@[simp] theorem State.latch_sp : (s.latch w).sp = s.sp := rfl
@[simp] theorem State.latch_dt : (s.latch w).dt = s.dt := rfl
@[simp] theorem State.latch_st : (s.latch w).st = s.st := rfl
@[simp] theorem State.latch_key : (s.latch w).key = s.key := rfl
@[simp] theorem State.latch_fb : (s.latch w).fb = s.fb := rfl
@[simp] theorem State.latch_mem : (s.latch w).mem = s.mem := rfl
@[simp] theorem State.latch_opcode : (s.latch w).opcode = w := rfl
@[simp] theorem State.latch_awaitingKey : (s.latch w).awaitingKey = s.awaitingKey := rfl
@[simp] theorem State.latch_awaitReg : (s.latch w).awaitReg = s.awaitReg := rfl
@[simp] theorem State.latch_fault : (s.latch w).fault = s.fault := rfl
@[simp] theorem State.latch_draws : (s.latch w).draws = s.draws := rfl

end Latch

section BeginWait

variable (s : State) (x : Reg)

@[simp] theorem State.beginWait_v : (s.beginWait x).v = s.v := rfl
@[simp] theorem State.beginWait_pc : (s.beginWait x).pc = s.pc := rfl
@[simp] theorem State.beginWait_index : (s.beginWait x).index = s.index := rfl
@[simp] theorem State.beginWait_stack : (s.beginWait x).stack = s.stack := rfl
@[simp] theorem State.beginWait_sp : (s.beginWait x).sp = s.sp := rfl
@[simp] theorem State.beginWait_dt : (s.beginWait x).dt = s.dt := rfl
@[simp] theorem State.beginWait_st : (s.beginWait x).st = s.st := rfl
@[simp] theorem State.beginWait_key : (s.beginWait x).key = s.key := rfl
@[simp] theorem State.beginWait_fb : (s.beginWait x).fb = s.fb := rfl
@[simp] theorem State.beginWait_mem : (s.beginWait x).mem = s.mem := rfl
@[simp] theorem State.beginWait_opcode : (s.beginWait x).opcode = s.opcode := rfl
@[simp] theorem State.beginWait_awaitingKey : (s.beginWait x).awaitingKey = true := rfl
@[simp] theorem State.beginWait_awaitReg : (s.beginWait x).awaitReg = x := rfl
@[simp] theorem State.beginWait_fault : (s.beginWait x).fault = s.fault := rfl
@[simp] theorem State.beginWait_draws : (s.beginWait x).draws = s.draws := rfl

end BeginWait

section SetKey

variable (s : State) (k : Reg) (b : Bool)

@[simp] theorem State.setKey_v : (s.setKey k b).v = s.v := rfl
@[simp] theorem State.setKey_pc : (s.setKey k b).pc = s.pc := rfl
@[simp] theorem State.setKey_index : (s.setKey k b).index = s.index := rfl
@[simp] theorem State.setKey_stack : (s.setKey k b).stack = s.stack := rfl
@[simp] theorem State.setKey_sp : (s.setKey k b).sp = s.sp := rfl
@[simp] theorem State.setKey_dt : (s.setKey k b).dt = s.dt := rfl
@[simp] theorem State.setKey_st : (s.setKey k b).st = s.st := rfl
@[simp] theorem State.setKey_key : (s.setKey k b).key = s.key.set k b := rfl
@[simp] theorem State.setKey_fb : (s.setKey k b).fb = s.fb := rfl
@[simp] theorem State.setKey_mem : (s.setKey k b).mem = s.mem := rfl
@[simp] theorem State.setKey_opcode : (s.setKey k b).opcode = s.opcode := rfl
@[simp] theorem State.setKey_awaitingKey : (s.setKey k b).awaitingKey = s.awaitingKey := rfl
@[simp] theorem State.setKey_awaitReg : (s.setKey k b).awaitReg = s.awaitReg := rfl
@[simp] theorem State.setKey_fault : (s.setKey k b).fault = s.fault := rfl
@[simp] theorem State.setKey_draws : (s.setKey k b).draws = s.draws := rfl

end SetKey

section Tick

variable (s : State)

@[simp] theorem State.tick_v : s.tick.v = s.v := rfl
@[simp] theorem State.tick_pc : s.tick.pc = s.pc := rfl
@[simp] theorem State.tick_index : s.tick.index = s.index := rfl
@[simp] theorem State.tick_stack : s.tick.stack = s.stack := rfl
@[simp] theorem State.tick_sp : s.tick.sp = s.sp := rfl
@[simp] theorem State.tick_dt : s.tick.dt = tickCounter s.dt := rfl
@[simp] theorem State.tick_st : s.tick.st = tickCounter s.st := rfl
@[simp] theorem State.tick_key : s.tick.key = s.key := rfl
@[simp] theorem State.tick_fb : s.tick.fb = s.fb := rfl
@[simp] theorem State.tick_mem : s.tick.mem = s.mem := rfl
@[simp] theorem State.tick_opcode : s.tick.opcode = s.opcode := rfl
@[simp] theorem State.tick_awaitingKey : s.tick.awaitingKey = s.awaitingKey := rfl
@[simp] theorem State.tick_awaitReg : s.tick.awaitReg = s.awaitReg := rfl
@[simp] theorem State.tick_fault : s.tick.fault = s.fault := rfl
@[simp] theorem State.tick_draws : s.tick.draws = s.draws := rfl

end Tick

section SkipIf

variable (s : State) (c : Bool)

/-- A skip changes nothing but PC. -/
theorem State.skipIf_eq : s.skipIf c = { s with pc := if c then s.pc + 2 else s.pc } := by
  cases c <;> rfl

@[simp] theorem State.skipIf_v : (s.skipIf c).v = s.v := by
  cases c <;> rfl
@[simp] theorem State.skipIf_pc : (s.skipIf c).pc = if c then s.pc + 2 else s.pc := by
  cases c <;> rfl
@[simp] theorem State.skipIf_index : (s.skipIf c).index = s.index := by
  cases c <;> rfl
@[simp] theorem State.skipIf_stack : (s.skipIf c).stack = s.stack := by
  cases c <;> rfl
@[simp] theorem State.skipIf_sp : (s.skipIf c).sp = s.sp := by
  cases c <;> rfl
@[simp] theorem State.skipIf_dt : (s.skipIf c).dt = s.dt := by
  cases c <;> rfl
@[simp] theorem State.skipIf_st : (s.skipIf c).st = s.st := by
  cases c <;> rfl
@[simp] theorem State.skipIf_key : (s.skipIf c).key = s.key := by
  cases c <;> rfl
@[simp] theorem State.skipIf_fb : (s.skipIf c).fb = s.fb := by
  cases c <;> rfl
@[simp] theorem State.skipIf_mem : (s.skipIf c).mem = s.mem := by
  cases c <;> rfl
@[simp] theorem State.skipIf_opcode : (s.skipIf c).opcode = s.opcode := by
  cases c <;> rfl
@[simp] theorem State.skipIf_awaitingKey : (s.skipIf c).awaitingKey = s.awaitingKey := by
  cases c <;> rfl
@[simp] theorem State.skipIf_awaitReg : (s.skipIf c).awaitReg = s.awaitReg := by
  cases c <;> rfl
@[simp] theorem State.skipIf_fault : (s.skipIf c).fault = s.fault := by
  cases c <;> rfl
@[simp] theorem State.skipIf_draws : (s.skipIf c).draws = s.draws := by
  cases c <;> rfl

end SkipIf

end Sys2Proof.Machine
end

