-- ==== Sys2Proof/Laws/Ops.lean ====
section
/-! SUPPORT. For each shared operation, one lemma that says once everything it can answer. -/

namespace Sys2Proof.Machine

/-! ### Registers -/

theorem State.reg_setReg (s : State) (x r : Reg) (b : Byte) :
    (s.setReg x b).reg r = if r = x then b else s.reg r := by
  unfold State.reg
  simp only [State.setReg_v, Fin.getElem_fin, Vector.getElem_set, Fin.ext_iff]
  by_cases h : x.val = r.val
  · simp [h]
  · simp [h, Ne.symm h]

@[simp] theorem State.reg_setReg_same (s : State) (x : Reg) (b : Byte) :
    (s.setReg x b).reg x = b := by simp [State.reg_setReg]

theorem State.reg_setReg_other (s : State) {x r : Reg} (b : Byte) (h : r ≠ x) :
    (s.setReg x b).reg r = s.reg r := by simp [State.reg_setReg, h]

/-- The flag is written last: VF holds it whatever `x` is (R63). -/
theorem State.reg_setRegThenFlag (s : State) (x r : Reg) (b flag : Byte) :
    (s.setRegThenFlag x b flag).reg r =
      if r = vf then flag else if r = x then b else s.reg r := by
  simp [State.setRegThenFlag, State.reg_setReg]

theorem State.reg_loadRegsFrom (s : State) (x r : Reg) (a : Nat) :
    (s.loadRegsFrom x a).reg r = if r ≤ x then s.byteAt (a + r) else s.reg r := by
  simp [State.reg, State.loadRegsFrom_v]

theorem State.length_regsTo (s : State) (x : Reg) : (s.regsTo x).length = x + 1 := by
  simp [State.regsTo]

theorem State.getD_regsTo (s : State) (x : Reg) (k : Nat) (hk : k ≤ x.val) (h : k < 16) :
    (s.regsTo x).getD k 0 = s.reg ⟨k, h⟩ := by
  simp [State.regsTo, State.reg, show k < x.val + 1 by omega]

theorem State.byteAt_storeBytes (s : State) (a b : Nat) (bytes : List Byte) :
    (s.storeBytes a bytes).byteAt b =
      if a ≤ b ∧ b < a + bytes.length then bytes.getD (b - a) 0 else s.byteAt b := by
  simp [State.byteAt, Memory.read_writeBytes]

@[simp] theorem length_bcdDigits (b : Byte) : (bcdDigits b).length = 3 := rfl

/-! ### Faults -/

/-- A raise answers a next state: PC back at the step's address, and the record (R64, R108). -/
theorem State.raise_eq (s : State) (k : FaultKind) :
    s.raise k = .next { s with pc := s.pc - 2, fault := some ⟨k, s.pc - 2, some s.opcode⟩ } := rfl

theorem State.settle_of_none (s0 : State) {t : State} (h : t.fault = none) : s0.settle t = t := by
  simp [State.settle, h]

theorem State.settle_of_some (s0 : State) {t : State} {r : FaultRecord} (h : t.fault = some r) :
    s0.settle t = { s0 with fault := some r } := by simp [State.settle, h]

/-- A range check either raises with the last address of a range that leaves memory, or goes on. -/
theorem State.checkRange_cases (s : State) (a len : Nat) (k : Result) :
    (0xFFF < a + len - 1 ∧ 0 < len ∧ s.checkRange a len k = s.raise (.memOutOfBounds (a + len - 1))) ∨
      ((len = 0 ∨ a + len ≤ 0x1000) ∧ s.checkRange a len k = k) := by
  unfold State.checkRange
  split
  · rename_i h
    exact .inl ⟨h.2, h.1, rfl⟩
  · exact .inr ⟨by omega, rfl⟩

theorem State.checkRange_ok (s : State) {a len : Nat} (k : Result) (h : len = 0 ∨ a + len ≤ 0x1000) :
    s.checkRange a len k = k := by
  unfold State.checkRange
  rw [if_neg (by omega)]

theorem State.checkRange_raise (s : State) {a len : Nat} (k : Result) (h0 : 0 < len)
    (h : 0x1000 < a + len) : s.checkRange a len k = s.raise (.memOutOfBounds (a + len - 1)) := by
  unfold State.checkRange
  rw [if_pos (by omega)]

/-- A push raises on 16 entries, and otherwise goes on with the entry stored and SP one more. -/
theorem State.push_cases (s : State) (a : Word) (k : State → Result) :
    (s.sp = 16 ∧ s.push a k = s.raise .stackOverflow) ∨
      ∃ h : s.sp.val < 16,
        s.push a k = k { s with stack := s.stack.set s.sp.val a h, sp := ⟨s.sp.val + 1, by omega⟩ } := by
  unfold State.push
  split
  · exact .inr ⟨‹_›, rfl⟩
  · exact .inl ⟨Fin.ext (by have := s.sp.isLt; simp; omega), rfl⟩

/-- A pop raises on no entries, and otherwise goes on with the entry below SP and SP one less. -/
theorem State.pop_cases (s : State) (k : Word → State → Result) :
    (s.sp = 0 ∧ s.pop k = s.raise .stackUnderflow) ∨
      ∃ (j : Nat) (h : j < 16), s.sp.val = j + 1 ∧
        s.pop k = k s.stack[j] { s with sp := ⟨j, by omega⟩ } := by
  unfold State.pop
  split
  · rename_i h
    exact .inl ⟨by rw [h]; rfl, rfl⟩
  · rename_i j hj h
    exact .inr ⟨j, by omega, by rw [h], rfl⟩

/-- A key test raises on an index above 15, and otherwise goes on with that key's state. -/
theorem State.withKey_cases (s : State) (x : Reg) (k : Bool → Result) :
    (15 < (s.reg x).toNat ∧ s.withKey x k = s.raise (.keyIndexOutOfRange (s.reg x))) ∨
      ∃ h : (s.reg x).toNat < 16, s.withKey x k = k s.key[(s.reg x).toNat] := by
  unfold State.withKey State.keyIndex
  by_cases h : (s.reg x).toNat < 16
  · exact .inr ⟨h, by simp [h]⟩
  · exact .inl ⟨by omega, by simp [h]⟩

/-! ### The step -/

/-- What a fetch answers, in the order of its checks (R60). -/
theorem State.fetchWord_cases (s : State) :
    (s.pc.toNat % 2 = 1 ∧ s.fetchWord true = .error .misalignedPc) ∨
      (s.pc.toNat % 2 = 0 ∧ 0xFFE < s.pc.toNat ∧ s.fetchWord true = .error .fetchOutOfBounds) ∨
      (s.pc.toNat % 2 = 0 ∧ s.pc.toNat ≤ 0xFFE ∧
        s.fetchWord true = .ok (s.byteAt s.pc.toNat ++ s.byteAt (s.pc.toNat + 1))) := by
  unfold State.fetchWord
  by_cases h : s.pc.toNat % 2 = 1
  · exact .inl ⟨h, by simp [h]⟩
  · by_cases h2 : 0xFFF < s.pc.toNat + 1
    · exact .inr (.inl ⟨by omega, by omega, by simp [h, h2]⟩)
    · refine .inr (.inr ⟨by omega, by omega, ?_⟩)
      simp [h, h2, Memory.wordAt, wordOfBytes, State.byteAt]

/-- A key chosen to end a wait is one of those offered (R65). -/
theorem chooseKey_mem (k : Reg) (ks : List Reg) (n : Nat) : chooseKey k ks n ∈ k :: ks := by
  unfold chooseKey
  split
  · simp
  · rename_i j js
    have h : Config.keyChoice n % (k :: j :: js).length < (k :: j :: js).length :=
      Nat.mod_lt _ (by simp)
    rw [List.getD_eq_getElem _ _ h]
    exact List.getElem_mem h

/-- A wait goes on with no key down, and otherwise ends with a pressed key's number in the awaited
register (R65). -/
theorem State.resolveKeyWait_cases (s : State) :
    ((∀ k : Reg, s.key[k] = false) ∧ s.resolveKeyWait = s) ∨
      ∃ k : Reg, s.key[k] = true ∧
        s.resolveKeyWait =
          { s with v := s.v.set s.awaitReg (BitVec.ofNat 8 k), awaitingKey := false,
                   draws := s.draws + 1 } := by
  unfold State.resolveKeyWait
  split
  · rename_i h
    refine .inl ⟨fun k => ?_, rfl⟩
    have := List.filter_eq_nil_iff.mp h k (by simp)
    simpa using this
  · rename_i k ks h
    refine .inr ⟨chooseKey k ks s.draws, ?_, rfl⟩
    have := chooseKey_mem k ks s.draws
    rw [← h] at this
    simpa [State.pressedKeys] using this

end Sys2Proof.Machine
end

