-- ==== Sys2Proof/Laws/Draw.lean ====
section
/-! SUPPORT. The laws of the framebuffer and of drawing (41_display.md R70): a draw inverts exactly the
covered pixels and reports whether one of them was on. -/

namespace Sys2Proof.Machine

theorem Framebuffer.pixel_setPixel (fb : Framebuffer) (r r' : Fin 32) (c c' : Fin 64) (b : Bool) :
    Framebuffer.pixel (fb.setPixel r c b) r' c' =
      if r' = r ∧ c' = c then b else fb.pixel r' c' := by
  unfold Framebuffer.pixel Framebuffer.setPixel
  simp only [Fin.getElem_fin, Vector.getElem_set, Fin.ext_iff]
  by_cases hr : r.val = r'.val
  · simp only [hr, if_true, true_and, Vector.getElem_set]
    by_cases hc : c.val = c'.val
    · simp [hc]
    · simp [hc, Ne.symm hc]
  · simp [hr, Ne.symm hr]

@[simp] theorem Framebuffer.pixel_clear (r : Fin 32) (c : Fin 64) :
    Framebuffer.clear.pixel r c = false := by
  simp [Framebuffer.pixel, Framebuffer.clear]

/-- Two framebuffers with the same pixels are equal. -/
theorem Framebuffer.ext_pixel {fb fb' : Framebuffer} (h : ∀ r c, fb.pixel r c = fb'.pixel r c) :
    fb = fb' := by
  apply Vector.ext
  intro r hr
  apply Vector.ext
  intro c hc
  exact h ⟨r, hr⟩ ⟨c, hc⟩

@[simp] theorem Canvas.hit_flip (cv : Canvas) (r : Fin 32) (c : Fin 64) :
    (cv.flip r c).hit = (cv.hit || cv.fb.pixel r c) := rfl

theorem Canvas.pixel_flip (cv : Canvas) (r r' : Fin 32) (c c' : Fin 64) :
    (cv.flip r c).fb.pixel r' c' =
      (cv.fb.pixel r' c' ^^ decide (r' = r ∧ c' = c)) := by
  unfold Canvas.flip
  rw [Framebuffer.pixel_setPixel]
  by_cases h : r' = r ∧ c' = c
  · simp [h]
  · simp [h]

/-- The column wrap hits column `c` exactly at `c`'s offset from the start column. -/
theorem wrapColumn_eq_iff {x0 k : Nat} (hx : x0 < 64) (hk : k < 64) (c : Fin 64) :
    c = wrapColumn x0 k ↔ (c.val + 64 - x0) % 64 = k := by
  have := c.isLt
  simp only [wrapColumn, Fin.ext_iff, Fin.val_ofNat]
  omega

/-- The first `k` bits of a sprite byte, as `drawByte` draws them. -/
def Canvas.drawBits (cv : Canvas) (b : Byte) (row : Fin 32) (x0 k : Nat) : Canvas :=
  (List.range k).foldl
    (fun cv c => if b.getLsbD (7 - c) then cv.flip row (wrapColumn x0 c) else cv) cv

theorem Canvas.drawBits_succ (cv : Canvas) (b : Byte) (row : Fin 32) (x0 k : Nat) :
    cv.drawBits b row x0 (k + 1) =
      if b.getLsbD (7 - k) then (cv.drawBits b row x0 k).flip row (wrapColumn x0 k)
      else cv.drawBits b row x0 k := by
  simp [Canvas.drawBits, List.range_succ]

theorem Canvas.pixel_drawBits (cv : Canvas) (b : Byte) (row r : Fin 32) (c : Fin 64) {x0 : Nat}
    (hx : x0 < 64) {k : Nat} (hk : k ≤ 8) :
    (cv.drawBits b row x0 k).fb.pixel r c =
      (cv.fb.pixel r c ^^ decide (r = row ∧ (c.val + 64 - x0) % 64 < k ∧
        b.getLsbD (7 - (c.val + 64 - x0) % 64) = true)) := by
  induction k with
  | zero => simp [Canvas.drawBits]
  | succ k ih =>
    rw [Canvas.drawBits_succ]
    have hw := wrapColumn_eq_iff hx (by omega : k < 64) c
    by_cases hb : b.getLsbD (7 - k) = true
    · simp only [if_pos hb, Canvas.pixel_flip, ih (by omega : k ≤ 8), hw, Bool.xor_assoc]
      congr 1
      by_cases hr : r = row
      · by_cases hc : (c.val + 64 - x0) % 64 = k
        · simp [hr, hc, hb]
        · have : (c.val + 64 - x0) % 64 < k + 1 ↔ (c.val + 64 - x0) % 64 < k := by omega
          simp [hr, hc, this]
      · simp [hr]
    · rw [if_neg hb, ih (by omega)]
      congr 1
      by_cases hc : (c.val + 64 - x0) % 64 = k
      · simp [hc, hb]
      · have : (c.val + 64 - x0) % 64 < k + 1 ↔ (c.val + 64 - x0) % 64 < k := by omega
        simp [this]

theorem Canvas.hit_drawBits (cv : Canvas) (b : Byte) (row : Fin 32) {x0 : Nat} (hx : x0 < 64)
    {k : Nat} (hk : k ≤ 8) :
    (cv.drawBits b row x0 k).hit = true ↔
      cv.hit = true ∨ ∃ c : Fin 64, ((c.val + 64 - x0) % 64 < k ∧
        b.getLsbD (7 - (c.val + 64 - x0) % 64) = true) ∧ cv.fb.pixel row c = true := by
  induction k with
  | zero => simp [Canvas.drawBits]
  | succ k ih =>
    rw [Canvas.drawBits_succ]
    by_cases hb : b.getLsbD (7 - k) = true
    · rw [if_pos hb, Canvas.hit_flip, Bool.or_eq_true, ih (by omega),
        Canvas.pixel_drawBits cv b row row _ hx (by omega)]
      have hw := (wrapColumn_eq_iff hx (by omega : k < 64) (wrapColumn x0 k)).mp rfl
      simp only [hw, lt_irrefl, false_and, and_false, decide_false, Bool.xor_false]
      constructor
      · rintro ((h | ⟨c, ⟨h1, h2⟩, h3⟩) | h)
        · exact .inl h
        · exact .inr ⟨c, ⟨by omega, h2⟩, h3⟩
        · exact .inr ⟨wrapColumn x0 k, ⟨by omega, by rw [hw]; exact hb⟩, h⟩
      · rintro (h | ⟨c, ⟨h1, h2⟩, h3⟩)
        · exact .inl (.inl h)
        · by_cases hc : (c.val + 64 - x0) % 64 = k
          · rw [(wrapColumn_eq_iff hx (by omega : k < 64) c).mpr hc] at h3
            exact .inr h3
          · exact .inl (.inr ⟨c, ⟨by omega, h2⟩, h3⟩)
    · rw [if_neg hb, ih (by omega)]
      refine or_congr_right (exists_congr fun c => and_congr_left fun _ => ?_)
      constructor
      · rintro ⟨h1, h2⟩
        exact ⟨by omega, h2⟩
      · rintro ⟨h1, h2⟩
        refine ⟨?_, h2⟩
        by_contra h
        rw [show (c.val + 64 - x0) % 64 = k by omega] at h2
        exact hb h2

/-- A sprite byte inverts the pixels it covers on its row. -/
theorem Canvas.pixel_drawByte (cv : Canvas) (b : Byte) (row r : Fin 32) (c : Fin 64) {x0 : Nat}
    (hx : x0 < 64) :
    (cv.drawByte b row x0).fb.pixel r c =
      (cv.fb.pixel r c ^^ (decide (r = row) && byteCovers b x0 c)) := by
  have := Canvas.pixel_drawBits cv b row r c hx (le_refl 8)
  unfold Canvas.drawBits at this
  unfold Canvas.drawByte
  rw [this]
  congr 1
  simp [byteCovers]

/-- A sprite byte collides when a pixel it covers on its row is on. -/
theorem Canvas.hit_drawByte (cv : Canvas) (b : Byte) (row : Fin 32) {x0 : Nat} (hx : x0 < 64) :
    (cv.drawByte b row x0).hit = true ↔
      cv.hit = true ∨ ∃ c, byteCovers b x0 c = true ∧ cv.fb.pixel row c = true := by
  have := Canvas.hit_drawBits cv b row hx (le_refl 8)
  unfold Canvas.drawBits at this
  unfold Canvas.drawByte
  rw [this]
  simp [byteCovers]

/-- Row `k` of a sprite falls on screen row `r` exactly when `r`'s sprite row is `k`. -/
theorem screenRow_eq_some_iff (policy : Config.RowPolicy) {y0 k : Nat} (hy : y0 < 32) (hk : k < 32)
    (r : Fin 32) : screenRow policy (y0 + k) = some r ↔ spriteRow policy y0 r = some k := by
  have := r.isLt
  unfold screenRow spriteRow
  by_cases h : y0 + k < 32 <;> cases policy <;> simp [h, Fin.ext_iff] <;> omega

/-- A pixel of the first `n` sprite rows is covered. -/
def rowsCover (policy : Config.RowPolicy) (m : Memory) (base x0 y0 n : Nat) (r : Fin 32)
    (c : Fin 64) : Bool :=
  match spriteRow policy y0 r with
  | none => false
  | some k => decide (k < n) && byteCovers (m.read (base + k)) x0 c

theorem Canvas.drawSprite_succ (cv : Canvas) (policy : Config.RowPolicy) (m : Memory)
    (base x0 y0 n : Nat) :
    cv.drawSprite policy m base x0 y0 (n + 1) =
      match screenRow policy (y0 + n) with
      | none => cv.drawSprite policy m base x0 y0 n
      | some row => (cv.drawSprite policy m base x0 y0 n).drawByte (m.read (base + n)) row x0 := by
  unfold Canvas.drawSprite
  exact (congrArg (List.foldl _ cv) List.range_succ).trans List.foldl_append

theorem rowsCover_succ (policy : Config.RowPolicy) (m : Memory) (base x0 n : Nat) {y0 : Nat}
    (hy : y0 < 32) (hn : n < 32) (r : Fin 32) (c : Fin 64) :
    rowsCover policy m base x0 y0 (n + 1) r c =
      (rowsCover policy m base x0 y0 n r c ||
        (decide (screenRow policy (y0 + n) = some r) && byteCovers (m.read (base + n)) x0 c)) := by
  simp only [screenRow_eq_some_iff policy hy hn r]
  unfold rowsCover
  cases h : spriteRow policy y0 r with
  | none => simp
  | some k =>
    by_cases hk : k = n
    · simp [hk]
    · have : k < n + 1 ↔ k < n := by omega
      simp [hk, this]

/-- A sprite inverts exactly the pixels its rows cover (R70). -/
theorem Canvas.pixel_drawSprite (cv : Canvas) (policy : Config.RowPolicy) (m : Memory)
    (base : Nat) {x0 y0 n : Nat} (hx : x0 < 64) (hy : y0 < 32) (hn : n ≤ 32) (r : Fin 32)
    (c : Fin 64) :
    (cv.drawSprite policy m base x0 y0 n).fb.pixel r c =
      (cv.fb.pixel r c ^^ rowsCover policy m base x0 y0 n r c) := by
  induction n with
  | zero =>
    unfold rowsCover Canvas.drawSprite
    cases spriteRow policy y0 r <;> simp
  | succ n ih =>
    have hfresh : screenRow policy (y0 + n) = some r →
        rowsCover policy m base x0 y0 n r c = false := by
      intro h
      rw [screenRow_eq_some_iff policy hy (by omega) r] at h
      simp [rowsCover, h]
    rw [Canvas.drawSprite_succ, rowsCover_succ policy m base x0 n hy (by omega)]
    cases h : screenRow policy (y0 + n) with
    | none => simp [ih (by omega)]
    | some row =>
      simp only [Canvas.pixel_drawByte _ _ _ _ _ hx, ih (by omega)]
      by_cases hr : row = r
      · subst hr
        simp [hfresh h]
      · simp [hr, Ne.symm hr]

/-- A sprite collides when a pixel its rows cover is on (R70). -/
theorem Canvas.hit_drawSprite (cv : Canvas) (policy : Config.RowPolicy) (m : Memory) (base : Nat)
    {x0 y0 n : Nat} (hx : x0 < 64) (hy : y0 < 32) (hn : n ≤ 32) :
    (cv.drawSprite policy m base x0 y0 n).hit = true ↔
      cv.hit = true ∨ ∃ r c, rowsCover policy m base x0 y0 n r c = true ∧ cv.fb.pixel r c = true := by
  induction n with
  | zero =>
    have : ∀ r c, rowsCover policy m base x0 y0 0 r c = false := by
      intro r c
      unfold rowsCover
      cases spriteRow policy y0 r <;> simp
    simp [Canvas.drawSprite, this]
  | succ n ih =>
    rw [Canvas.drawSprite_succ]
    simp only [rowsCover_succ policy m base x0 n hy (by omega : n < 32), Bool.or_eq_true,
      Bool.and_eq_true, decide_eq_true_eq]
    cases h : screenRow policy (y0 + n) with
    | none => simp [ih (by omega)]
    | some row =>
      have hfresh : ∀ c, rowsCover policy m base x0 y0 n row c = false := by
        intro c
        rw [screenRow_eq_some_iff policy hy (by omega) row] at h
        simp [rowsCover, h]
      simp only [Canvas.hit_drawByte _ _ _ hx, ih (by omega), Option.some.injEq,
        Canvas.pixel_drawSprite cv policy m base hx hy (by omega : n ≤ 32), hfresh, Bool.xor_false]
      constructor
      · rintro ((h | ⟨r, c, h1, h2⟩) | ⟨c, h1, h2⟩)
        · exact .inl h
        · exact .inr ⟨r, c, .inl h1, h2⟩
        · exact .inr ⟨row, c, .inr ⟨rfl, h1⟩, h2⟩
      · rintro (h | ⟨r, c, h1 | ⟨rfl, h1⟩, h2⟩)
        · exact .inl (.inl h)
        · exact .inl (.inr ⟨r, c, h1, h2⟩)
        · exact .inr ⟨c, h1, h2⟩

/-! ### The draw of a state -/

theorem State.rowsOverflow_iff (s : State) (policy : Config.RowPolicy) (y : Reg) (n : Nibble) :
    s.rowsOverflow policy y n = true ↔
      policy = .fault ∧ 0 < n.toNat ∧ 31 < (s.reg y).toNat % 32 + n.toNat - 1 := by
  unfold State.rowsOverflow State.lastRow State.startRow
  rw [Bool.and_eq_true, Bool.and_eq_true, beq_iff_eq, decide_eq_true_eq, decide_eq_true_eq,
    and_assoc]

/-- A draw inverts exactly the covered pixels. -/
theorem State.pixel_drawn (s : State) (policy : Config.RowPolicy) (x y : Reg) (n : Nibble)
    (r : Fin 32) (c : Fin 64) :
    (s.drawn policy x y n).fb.pixel r c = (s.fb.pixel r c ^^ s.covers policy x y n r c) :=
  Canvas.pixel_drawSprite _ policy s.mem s.base (Nat.mod_lt _ (by decide)) (Nat.mod_lt _ (by decide))
    (by have := n.isLt; omega) r c

/-- A draw collides exactly when a covered pixel is on. -/
theorem State.hit_drawn (s : State) (policy : Config.RowPolicy) (x y : Reg) (n : Nibble) :
    (s.drawn policy x y n).hit = true ↔
      ∃ r c, s.covers policy x y n r c = true ∧ s.fb.pixel r c = true := by
  refine (Canvas.hit_drawSprite _ policy s.mem s.base (Nat.mod_lt _ (by decide))
    (Nat.mod_lt _ (by decide)) (by have := n.isLt; omega)).trans ?_
  rw [or_iff_right Bool.false_ne_true]
  rfl

end Sys2Proof.Machine
end

