-- ==== Sys2Proof/Laws/PerInstr.lean ====
section
/-! SUPPORT. Statements about every instruction as syntax, one lemma per constructor. -/

namespace Sys2Proof

/-- The instruction's encoding has the fixed bits of its row of opcode_table.json (R50). -/
def Laws.EncodesInTableRow.Statement (i : Instr) : Prop :=
  encode i &&& (tableRow i).mask = (tableRow i).bits

theorem Laws.EncodesInTableRow.sys (nnn : Imm12) : Laws.EncodesInTableRow.Statement (.sys nnn) :=
  (packNNN_and_op 0x0 nnn).trans rfl

theorem Laws.EncodesInTableRow.cls : Laws.EncodesInTableRow.Statement .cls :=
  rfl

theorem Laws.EncodesInTableRow.ret : Laws.EncodesInTableRow.Statement .ret :=
  rfl

theorem Laws.EncodesInTableRow.jp (nnn : Imm12) : Laws.EncodesInTableRow.Statement (.jp nnn) :=
  (packNNN_and_op 0x1 nnn).trans rfl

theorem Laws.EncodesInTableRow.call (nnn : Imm12) : Laws.EncodesInTableRow.Statement (.call nnn) :=
  (packNNN_and_op 0x2 nnn).trans rfl

theorem Laws.EncodesInTableRow.seImm (x : Reg) (kk : Byte) :
    Laws.EncodesInTableRow.Statement (.seImm x kk) :=
  (packXKK_and_op 0x3 x kk).trans rfl

theorem Laws.EncodesInTableRow.sneImm (x : Reg) (kk : Byte) :
    Laws.EncodesInTableRow.Statement (.sneImm x kk) :=
  (packXKK_and_op 0x4 x kk).trans rfl

theorem Laws.EncodesInTableRow.seReg (x y : Reg) : Laws.EncodesInTableRow.Statement (.seReg x y) :=
  (packXYN_and_op 0x5 x y 0).trans rfl

theorem Laws.EncodesInTableRow.ldImm (x : Reg) (kk : Byte) :
    Laws.EncodesInTableRow.Statement (.ldImm x kk) :=
  (packXKK_and_op 0x6 x kk).trans rfl

theorem Laws.EncodesInTableRow.addImm (x : Reg) (kk : Byte) :
    Laws.EncodesInTableRow.Statement (.addImm x kk) :=
  (packXKK_and_op 0x7 x kk).trans rfl

theorem Laws.EncodesInTableRow.ldReg (x y : Reg) : Laws.EncodesInTableRow.Statement (.ldReg x y) :=
  (packXYN_and_op_n 0x8 x y 0x0).trans rfl

theorem Laws.EncodesInTableRow.orReg (x y : Reg) : Laws.EncodesInTableRow.Statement (.orReg x y) :=
  (packXYN_and_op_n 0x8 x y 0x1).trans rfl

theorem Laws.EncodesInTableRow.andReg (x y : Reg) :
    Laws.EncodesInTableRow.Statement (.andReg x y) :=
  (packXYN_and_op_n 0x8 x y 0x2).trans rfl

theorem Laws.EncodesInTableRow.xorReg (x y : Reg) :
    Laws.EncodesInTableRow.Statement (.xorReg x y) :=
  (packXYN_and_op_n 0x8 x y 0x3).trans rfl

theorem Laws.EncodesInTableRow.addReg (x y : Reg) :
    Laws.EncodesInTableRow.Statement (.addReg x y) :=
  (packXYN_and_op_n 0x8 x y 0x4).trans rfl

theorem Laws.EncodesInTableRow.subReg (x y : Reg) :
    Laws.EncodesInTableRow.Statement (.subReg x y) :=
  (packXYN_and_op_n 0x8 x y 0x5).trans rfl

theorem Laws.EncodesInTableRow.shr (x : Reg) : Laws.EncodesInTableRow.Statement (.shr x) :=
  (packXYN_and_op_n 0x8 x 0 0x6).trans rfl

theorem Laws.EncodesInTableRow.subn (x y : Reg) : Laws.EncodesInTableRow.Statement (.subn x y) :=
  (packXYN_and_op_n 0x8 x y 0x7).trans rfl

theorem Laws.EncodesInTableRow.shl (x : Reg) : Laws.EncodesInTableRow.Statement (.shl x) :=
  (packXYN_and_op_n 0x8 x 0 0xE).trans rfl

theorem Laws.EncodesInTableRow.sneReg (x y : Reg) :
    Laws.EncodesInTableRow.Statement (.sneReg x y) :=
  (packXYN_and_op 0x9 x y 0).trans rfl

theorem Laws.EncodesInTableRow.ldI (nnn : Imm12) : Laws.EncodesInTableRow.Statement (.ldI nnn) :=
  (packNNN_and_op 0xA nnn).trans rfl

theorem Laws.EncodesInTableRow.jpV0 (nnn : Imm12) : Laws.EncodesInTableRow.Statement (.jpV0 nnn) :=
  (packNNN_and_op 0xB nnn).trans rfl

theorem Laws.EncodesInTableRow.rnd (x : Reg) (kk : Byte) :
    Laws.EncodesInTableRow.Statement (.rnd x kk) :=
  (packXKK_and_op 0xC x kk).trans rfl

theorem Laws.EncodesInTableRow.drw (x y : Reg) (n : Nibble) :
    Laws.EncodesInTableRow.Statement (.drw x y n) :=
  (packXYN_and_op 0xD x y n).trans rfl

theorem Laws.EncodesInTableRow.skp (x : Reg) : Laws.EncodesInTableRow.Statement (.skp x) :=
  (packXKK_and_op_kk 0xE x 0x9E).trans rfl

theorem Laws.EncodesInTableRow.sknp (x : Reg) : Laws.EncodesInTableRow.Statement (.sknp x) :=
  (packXKK_and_op_kk 0xE x 0xA1).trans rfl

theorem Laws.EncodesInTableRow.ldVxDt (x : Reg) : Laws.EncodesInTableRow.Statement (.ldVxDt x) :=
  (packXKK_and_op_kk 0xF x 0x07).trans rfl

theorem Laws.EncodesInTableRow.ldVxK (x : Reg) : Laws.EncodesInTableRow.Statement (.ldVxK x) :=
  (packXKK_and_op_kk 0xF x 0x0A).trans rfl

theorem Laws.EncodesInTableRow.ldDtVx (x : Reg) : Laws.EncodesInTableRow.Statement (.ldDtVx x) :=
  (packXKK_and_op_kk 0xF x 0x15).trans rfl

theorem Laws.EncodesInTableRow.ldStVx (x : Reg) : Laws.EncodesInTableRow.Statement (.ldStVx x) :=
  (packXKK_and_op_kk 0xF x 0x18).trans rfl

theorem Laws.EncodesInTableRow.addI (x : Reg) : Laws.EncodesInTableRow.Statement (.addI x) :=
  (packXKK_and_op_kk 0xF x 0x1E).trans rfl

theorem Laws.EncodesInTableRow.ldF (x : Reg) : Laws.EncodesInTableRow.Statement (.ldF x) :=
  (packXKK_and_op_kk 0xF x 0x29).trans rfl

theorem Laws.EncodesInTableRow.ldB (x : Reg) : Laws.EncodesInTableRow.Statement (.ldB x) :=
  (packXKK_and_op_kk 0xF x 0x33).trans rfl

theorem Laws.EncodesInTableRow.storeRegs (x : Reg) :
    Laws.EncodesInTableRow.Statement (.storeRegs x) :=
  (packXKK_and_op_kk 0xF x 0x55).trans rfl

theorem Laws.EncodesInTableRow.loadRegs (x : Reg) :
    Laws.EncodesInTableRow.Statement (.loadRegs x) :=
  (packXKK_and_op_kk 0xF x 0x65).trans rfl

end Sys2Proof
end

