-- ==== Sys2Proof/Laws/Step.lean ====
section
/-! SUPPORT. What a step does, said once: which of the paths of R59 it takes. -/

namespace Sys2Proof.Machine

/-- A step on a faulted core reports the record (R67). -/
theorem step_of_fault {s : State} {record : FaultRecord} (h : s.fault = some record) :
    step s = .fault (.faulted record) := by
  unfold step State.stepOnce
  rw [h]

/-- A step of a pending wait checks the keypad (R65). -/
theorem step_of_wait {s : State} (hf : s.fault = none) (hw : s.awaitingKey = true) :
    step s = .next s.resolveKeyWait := by
  unfold step State.stepOnce
  rw [hf, hw]
  rfl

/-- Any other step is one cycle (R59). -/
theorem step_of_cycle {s : State} (hf : s.fault = none) (hw : s.awaitingKey = false) :
    step s = s.cycle true := by
  unfold step State.stepOnce Config.pcAlignCheck
  rw [hf, hw]
  rfl

/-- A step that fetches a word runs it (R59, R60). -/
theorem step_of_fetches {s : State} {w : Word} (h : s.Fetches w) : step s = s.runWord w := by
  obtain ⟨hf, hw, heven, htop, hword⟩ := h
  rw [step_of_cycle hf hw, State.cycle]
  rcases s.fetchWord_cases with ⟨hodd, _⟩ | ⟨_, hhigh, _⟩ | ⟨_, _, hok⟩
  · omega
  · omega
  · rw [hok, hword]

/-- What a step from an unfaulted core that answers `t` did: it checked a wait, or failed to fetch, or
fetched a word that selects nothing, or ran the instruction of the word it fetched. -/
theorem step_cases {s t : State} (hf : s.fault = none) (h : step s = .next t) :
    (s.awaitingKey = true ∧ t = s.resolveKeyWait) ∨
      (s.awaitingKey = false ∧ s.pc.toNat % 2 = 1 ∧
        t = { s with fault := some ⟨.misalignedPc, s.pc, none⟩ }) ∨
      (s.awaitingKey = false ∧ s.pc.toNat % 2 = 0 ∧ 0xFFE < s.pc.toNat ∧
        t = { s with fault := some ⟨.fetchOutOfBounds, s.pc, none⟩ }) ∨
      (∃ w, s.Fetches w ∧ (∀ i, decode w ≠ .ok i) ∧
        t = { s with fault := some ⟨.illegalOpcode, s.pc, some w⟩ }) ∨
      (∃ w i u, s.Fetches w ∧ decode w = .ok i ∧ exec i (s.preAdvanced w) = .next u ∧
        t = s.settle u) := by
  cases ha : s.awaitingKey with
  | true =>
    rw [step_of_wait hf ha] at h
    cases h
    exact .inl ⟨rfl, rfl⟩
  | false =>
    refine .inr ?_
    rcases s.fetchWord_cases with ⟨hodd, hk⟩ | ⟨heven, hhigh, hk⟩ | ⟨heven, htop, hk⟩
    · rw [step_of_cycle hf ha, State.cycle, hk] at h
      cases h
      exact .inl ⟨rfl, hodd, by rw [← ha]; rfl⟩
    · rw [step_of_cycle hf ha, State.cycle, hk] at h
      cases h
      exact .inr (.inl ⟨rfl, heven, hhigh, by rw [← ha]; rfl⟩)
    · refine .inr (.inr ?_)
      have hF : s.Fetches (s.byteAt s.pc.toNat ++ s.byteAt (s.pc.toNat + 1)) :=
        ⟨hf, ha, heven, htop, rfl⟩
      generalize s.byteAt s.pc.toNat ++ s.byteAt (s.pc.toNat + 1) = w at hF
      rw [step_of_fetches hF, State.runWord] at h
      cases hd : decode w with
      | error r =>
        rw [hd] at h
        simp only [State.raise, State.settleResult, State.settle, State.takeFault, State.setPc,
          State.latch, BitVec.add_sub_cancel, Host.Outcome.next.injEq] at h
        exact .inl ⟨w, hF, by simp [hd], by rw [← ha]; exact h.symm⟩
      | ok i =>
        rw [hd] at h
        refine .inr ⟨w, i, ?_⟩
        cases hu : exec i (s.latch w) with
        | next u =>
          simp only [hu, State.settleResult, Host.Outcome.next.injEq] at h
          exact ⟨u, hF, hd, hu, h.symm⟩
        | fault f => simp [hu, State.settleResult] at h
        | refused q => simp [hu, State.settleResult] at h

end Sys2Proof.Machine
end

