-- ==== Sys2Proof/Tests/Slice0.lean ====
section
/-! SUPPORT. Tests. Each expected value is the spec's: `V<n>` and `S<n>` are the vectors and source examples
of 95_test_vectors.md. Then, for each statement with hypotheses, a witness that meets them. -/

namespace Sys2Proof.Tests

open Sys2Proof Sys2Proof.Machine

/-! ### Helpers -/

/-- `s` with the word at its PC, as the vectors place it. -/
def withWord (s : State) (w : Word) : State :=
  s.storeBytes s.pc.toNat [firstByte w, secondByte w]

/-- One `Step()` at a state with the word at its PC. -/
def run (s : State) (w : Word) : State := (withWord s w).after .step

/-- The reset state with registers set. -/
def regs (l : List (Reg × Byte)) : State := l.foldl (fun s p => s.setReg p.1 p.2) State.reset

/-- The reset state with a pixel on. -/
def pixelOn (s : State) (r : Fin 32) (c : Fin 64) : State :=
  s.setFb (s.fb.set r ((s.fb[r]).set c true))

/-- The pixels that are on in one row, as column numbers. -/
def litColumns (s : State) (r : Fin 32) : List Nat :=
  ((List.finRange 64).filter (fun c => s.fb.pixel r c)).map Fin.val

/-- The rows with a pixel on. -/
def litRows (s : State) : List Nat :=
  ((List.finRange 32).filter (fun r => litColumns s r != [])).map Fin.val

/-- `SP` set to `n`, every stack entry 0x206. -/
def depth (n : Fin 17) : State := { State.reset with sp := n, stack := Vector.replicate 16 0x206 }

/-! ### Well-formedness (R51) -/

theorem test_wf_refuses_sys_e0 : (Instr.sys 0x1E0).wf = false := by decide
theorem test_wf_refuses_sys_ee : (Instr.sys 0x0EE).wf = false := by decide
theorem test_wf_accepts_sys : (Instr.sys 0x123).wf = true := by decide

/-! ### Decoding: one word of every constructor, from R50's patterns -/

theorem test_decode_op0 :
    decode 0x0123 = .ok (.sys 0x123) ∧ decode 0x00E0 = .ok .cls ∧ decode 0x00EE = .ok .ret := by
  decide

theorem test_decode_jumps :
    decode 0x1345 = .ok (.jp 0x345) ∧ decode 0x2210 = .ok (.call 0x210) ∧
      decode 0xBA0F = .ok (.jpV0 0xA0F) ∧ decode 0xA300 = .ok (.ldI 0x300) := by decide

theorem test_decode_skips :
    decode 0x3342 = .ok (.seImm 3 0x42) ∧ decode 0x4342 = .ok (.sneImm 3 0x42) ∧
      decode 0x5120 = .ok (.seReg 1 2) ∧ decode 0x9120 = .ok (.sneReg 1 2) ∧
      decode 0xE59E = .ok (.skp 5) ∧ decode 0xE5A1 = .ok (.sknp 5) := by decide

theorem test_decode_immediates :
    decode 0x6A9C = .ok (.ldImm 10 0x9C) ∧ decode 0x71FF = .ok (.addImm 1 0xFF) ∧
      decode 0xC30F = .ok (.rnd 3 0x0F) ∧ decode 0xD125 = .ok (.drw 1 2 5) := by decide

theorem test_decode_family8 :
    decode 0x81F0 = .ok (.ldReg 1 15) ∧ decode 0x8121 = .ok (.orReg 1 2) ∧
      decode 0x8122 = .ok (.andReg 1 2) ∧ decode 0x8123 = .ok (.xorReg 1 2) ∧
      decode 0x8124 = .ok (.addReg 1 2) ∧ decode 0x8125 = .ok (.subReg 1 2) ∧
      decode 0x8A56 = .ok (.shr 10) ∧ decode 0x8127 = .ok (.subn 1 2) ∧
      decode 0x826E = .ok (.shl 2) := by decide

theorem test_decode_familyF :
    decode 0xF307 = .ok (.ldVxDt 3) ∧ decode 0xF30A = .ok (.ldVxK 3) ∧
      decode 0xF315 = .ok (.ldDtVx 3) ∧ decode 0xF318 = .ok (.ldStVx 3) ∧
      decode 0xF31E = .ok (.addI 3) ∧ decode 0xFA29 = .ok (.ldF 10) ∧
      decode 0xFA33 = .ok (.ldB 10) ∧ decode 0xFF55 = .ok (.storeRegs 15) ∧
      decode 0xFF65 = .ok (.loadRegs 15) := by decide

/-- V9, V10, V15 (R55): ignored bits do not change what is decoded. -/
theorem test_decode_ignored_bits :
    decode 0x01E0 = .ok .cls ∧ decode 0x03EE = .ok .ret ∧ decode 0x5121 = .ok (.seReg 1 2) := by
  decide

/-- V11 to V14 (R56). -/
theorem test_decode_selects_nothing :
    decode 0x8008 = .error (.illegalOpcode 0x8008) ∧ decode 0x801F = .error (.illegalOpcode 0x801F) ∧
      decode 0xE09F = .error (.illegalOpcode 0xE09F) ∧
      decode 0xF0FF = .error (.illegalOpcode 0xF0FF) := by decide

/-- R35: the byte at the lower address is bits 15:8. -/
theorem test_decode_bytes_big_endian : decodeBytes [0x12, 0x34] = .ok (.jp 0x234) := by decide
theorem test_decode_table_word : decodeTableWord 16 0xD125 = some (.drw 1 2 5) := by decide

/-! ### Fetch, faults and the step (V1–V16) -/

/-- V1. -/
theorem test_odd_pc :
    ((State.reset.setPc 0x201).after .step).fault = some ⟨.misalignedPc, 0x201, none⟩ := by decide

/-- V2. -/
theorem test_odd_pc_unchecked :
    ∃ t, (withWord (State.reset.setPc 0x201) 0x6001).cycle false = .next t ∧ t.pc = 0x203 ∧
      t.reg 0 = 1 := ⟨_, rfl, by decide, by decide⟩

/-- V5. -/
theorem test_odd_pc_unchecked_at_the_top :
    ∃ t, (State.reset.setPc 0xFFF).cycle false = .next t ∧
      t.fault = some ⟨.fetchOutOfBounds, 0xFFF, none⟩ := ⟨_, rfl, by decide⟩

/-- V3. -/
theorem test_fetch_at_the_top :
    (run (State.reset.setPc 0xFFE) 0x6001).pc = 0x1000 ∧
      (run (State.reset.setPc 0xFFE) 0x6001).reg 0 = 1 := by decide

/-- V4. -/
theorem test_fetch_past_the_top :
    ((State.reset.setPc 0x1000).after .step).fault = some ⟨.fetchOutOfBounds, 0x1000, none⟩ := by
  decide

/-- V6, R127. -/
theorem test_sys_faults :
    State.reset.after .step =
      { State.reset with fault := some ⟨.unsupportedSys, 0x200, some 0x0000⟩ } := by decide

/-- V11, R64. -/
theorem test_illegal_word_faults :
    run State.reset 0x8008 =
      { withWord State.reset 0x8008 with fault := some ⟨.illegalOpcode, 0x200, some 0x8008⟩ } := by
  decide

/-- V16. -/
theorem test_faulted_core_is_stuck :
    (State.reset.after .step).after .step = State.reset.after .step ∧
      (State.reset.after .step).stepResult = some (.faulted .unsupportedSys) := by decide

/-- R106. -/
theorem test_fault_codes :
    [FaultKind.misalignedPc, .fetchOutOfBounds, .unsupportedSys, .illegalOpcode, .stackOverflow,
      .stackUnderflow, .memOutOfBounds 0x1000, .drawRowOverflow 34, .keyIndexOutOfRange 16].map
      FaultKind.code = [1, 2, 3, 4, 5, 6, 7, 8, 9] := by decide

/-- The host's placement is fetched and run. -/
theorem test_with_fetch_word :
    ((State.reset.withFetchWord 16 0x1345).after .step).pc = 0x345 := by decide

/-! ### Control flow (V20–V33) -/

/-- V20. -/
theorem test_jp : (run State.reset 0x1345).pc = 0x345 := by decide

/-- V21. -/
theorem test_call :
    (run (State.reset.setPc 0x204) 0x2210).pc = 0x210 ∧
      (run (State.reset.setPc 0x204) 0x2210).sp = 1 ∧
      (run (State.reset.setPc 0x204) 0x2210).stack[0] = 0x206 := by decide

/-- V22. -/
theorem test_call_overflow :
    (run (depth 16) 0x2300).fault = some ⟨.stackOverflow, 0x200, some 0x2300⟩ := by decide

/-- V23. -/
theorem test_ret :
    (run ((depth 1).setPc 0x210) 0x00EE).pc = 0x206 ∧
      (run ((depth 1).setPc 0x210) 0x00EE).sp = 0 ∧
      (run ((depth 1).setPc 0x210) 0x00EE).stack[0] = 0x206 := by decide

/-- V24. -/
theorem test_ret_underflow :
    (run State.reset 0x00EE).fault = some ⟨.stackUnderflow, 0x200, some 0x00EE⟩ := by decide

/-- S7. -/
theorem test_se_imm :
    (run (regs [(3, 0x42)]) 0x3342).pc = 0x204 ∧ (run (regs [(3, 0x42)]) 0x3343).pc = 0x202 := by
  decide

/-- V25, V26. -/
theorem test_sne_imm :
    (run (regs [(3, 0x42)]) 0x4342).pc = 0x202 ∧ (run (regs [(3, 0x42)]) 0x4300).pc = 0x204 := by
  decide

/-- V15, V27. -/
theorem test_se_reg :
    (run (regs [(1, 7), (2, 7)]) 0x5121).pc = 0x204 ∧
      (run (regs [(1, 7), (2, 8)]) 0x5120).pc = 0x202 := by decide

/-- V28, V29. -/
theorem test_sne_reg :
    (run (regs [(1, 7), (2, 8)]) 0x9120).pc = 0x204 ∧
      (run (regs [(1, 7), (2, 7)]) 0x9120).pc = 0x202 := by decide

/-- S5. -/
theorem test_jp_v0_reads_v0 : (run (regs [(0, 0x02), (10, 0x50)]) 0xBA00).pc = 0xA02 := by decide

/-- V30. -/
theorem test_jp_v0_passes_memory : (run (regs [(0, 0xFF)]) 0xBFFF).pc = 0x10FE := by decide

/-- V8: the other policy of R71. -/
theorem test_sys_nop : State.sysUnder .nop State.reset = .next State.reset := rfl

/-! ### Loads and arithmetic (V40–V68) -/

/-- V40. -/
theorem test_ld_imm : (run State.reset 0x6A9C).reg 10 = 0x9C := by decide

/-- V41. -/
theorem test_add_imm_no_flag :
    (run (regs [(1, 0x05), (15, 0x33)]) 0x71FF).reg 1 = 0x04 ∧
      (run (regs [(1, 0x05), (15, 0x33)]) 0x71FF).reg 15 = 0x33 := by decide

/-- V43. -/
theorem test_ld_reg : (run (regs [(15, 1)]) 0x81F0).reg 1 = 1 := by decide

/-- V44. -/
theorem test_or_no_flag :
    (run (regs [(0, 0xF0), (1, 0x0F), (15, 0x77)]) 0x8011).reg 0 = 0xFF ∧
      (run (regs [(0, 0xF0), (1, 0x0F), (15, 0x77)]) 0x8011).reg 15 = 0x77 := by decide

/-- V45. -/
theorem test_and : (run (regs [(0, 0xF0), (1, 0x3C)]) 0x8012).reg 0 = 0x30 := by decide

/-- V46. -/
theorem test_xor : (run (regs [(0, 0xFF), (1, 0x0F)]) 0x8013).reg 0 = 0xF0 := by decide

/-- S1. -/
theorem test_add_reg :
    (run (regs [(0, 250), (1, 10)]) 0x8014).reg 0 = 4 ∧
      (run (regs [(0, 250), (1, 10)]) 0x8014).reg 15 = 1 := by decide

/-- V51. -/
theorem test_add_reg_into_vf : (run (regs [(15, 0xFF), (1, 0x02)]) 0x8F14).reg 15 = 1 := by decide

/-- S2. -/
theorem test_sub :
    (run (regs [(0, 5), (1, 9)]) 0x8015).reg 0 = 252 ∧
      (run (regs [(0, 5), (1, 9)]) 0x8015).reg 15 = 0 := by decide

/-- V53. -/
theorem test_sub_equal : (run (regs [(0, 7), (1, 7)]) 0x8015).reg 15 = 0 := by decide

/-- S3. -/
theorem test_shr : (run (regs [(0, 3)]) 0x8006).reg 0 = 1 ∧ (run (regs [(0, 3)]) 0x8006).reg 15 = 1 := by
  decide

/-- V58. -/
theorem test_shr_ignores_y :
    (run (regs [(10, 0x05), (5, 0xFF)]) 0x8A56).reg 10 = 0x02 ∧
      (run (regs [(10, 0x05), (5, 0xFF)]) 0x8A56).reg 5 = 0xFF := by decide

/-- V60. -/
theorem test_subn :
    (run (regs [(0, 5), (1, 9)]) 0x8017).reg 0 = 4 ∧
      (run (regs [(0, 5), (1, 9)]) 0x8017).reg 15 = 1 := by decide

/-- V61. -/
theorem test_subn_borrow :
    (run (regs [(0, 9), (1, 5)]) 0x8017).reg 0 = 0xFC ∧
      (run (regs [(0, 9), (1, 5)]) 0x8017).reg 15 = 0 := by decide

/-- V63. -/
theorem test_shl :
    (run (regs [(2, 0xC0)]) 0x826E).reg 2 = 0x80 ∧ (run (regs [(2, 0xC0)]) 0x826E).reg 15 = 1 := by
  decide

/-- V65. -/
theorem test_shl_into_vf : (run (regs [(15, 0x81)]) 0x8F0E).reg 15 = 1 := by decide

/-- V67: whatever the draw, the mask 0 gives 0. -/
theorem test_rnd_mask_zero :
    ∃ t, exec (.rnd 3 0x00) State.reset = .next t ∧ t.reg 3 = 0x00 := by
  refine ⟨_, rfl, ?_⟩
  change Config.randomByte 0 &&& 0x00 = 0x00
  simp

/-- V68: with the mask 0xFF the drawn byte is the result. -/
theorem test_rnd_mask_full :
    ∃ t, exec (.rnd 3 0xFF) State.reset = .next t ∧ t.reg 3 = Config.randomByte 0 := by
  refine ⟨_, rfl, ?_⟩
  exact BitVec.and_allOnes

/-! ### Display (V70–V83) -/

/-- V70. -/
theorem test_cls :
    litRows (run (pixelOn (pixelOn State.reset 0 0) 31 63) 0x00E0) = [] := by decide

/-- V71: glyph 0 at (0,0). -/
theorem test_drw_glyph :
    (List.finRange 5).map (fun k => litColumns (run (State.reset.setIndex 0x050) 0xD015)
      (Fin.ofNat 32 k)) = [[0, 1, 2, 3], [0, 3], [0, 3], [0, 3], [0, 1, 2, 3]] := by decide

/-- V72: a collision. -/
theorem test_drw_collision :
    litColumns (run (pixelOn (State.reset.setIndex 0x050) 0 2) 0xD011) 0 = [0, 1, 3] ∧
      (run (pixelOn (State.reset.setIndex 0x050) 0 2) 0xD011).reg 15 = 1 := by decide

/-- V73: the columns wrap. -/
theorem test_drw_column_wrap :
    litColumns (run ((regs [(0, 62)]).setIndex 0x050) 0xD011) 0 = [0, 1, 62, 63] := by decide

/-- V77. -/
theorem test_drw_row_overflow :
    (run ((regs [(1, 30)]).setIndex 0x050) 0xD015).fault =
      some ⟨.drawRowOverflow 34, 0x200, some 0xD015⟩ := by decide

/-- V80: the bytes' range is checked first. -/
theorem test_drw_range_first :
    (run ((regs [(1, 30)]).setIndex 0xFFE) 0xD015).fault =
      some ⟨.memOutOfBounds 0x1002, 0x200, some 0xD015⟩ := by decide

/-- The state a draw under a policy leaves. -/
def drawnUnder (policy : Config.RowPolicy) (s : State) : State :=
  match State.drawUnder policy s 0 1 5 with
  | .next t => t
  | .fault _ => s
  | .refused _ => s

/-- V78, V79: the other two policies. -/
theorem test_drw_clip_and_wrap :
    litRows (drawnUnder .clip ((regs [(1, 30)]).setIndex 0x050)) = [30, 31] ∧
      litRows (drawnUnder .wrap ((regs [(1, 30)]).setIndex 0x050)) = [0, 1, 2, 30, 31] := by decide

/-! ### Keypad and timers (V90–V104) -/

/-- V90, V91. -/
theorem test_skp :
    (run ((regs [(5, 7)]).setKey 7 true) 0xE59E).pc = 0x204 ∧
      (run (regs [(5, 7)]) 0xE59E).pc = 0x202 := by decide

/-- V92, V93. -/
theorem test_sknp :
    (run (regs [(5, 7)]) 0xE5A1).pc = 0x204 ∧
      (run ((regs [(5, 7)]).setKey 7 true) 0xE5A1).pc = 0x202 := by decide

/-- V94. -/
theorem test_skp_index_too_high :
    (run (regs [(5, 16)]) 0xE59E).fault =
      some ⟨.keyIndexOutOfRange 16, 0x200, some 0xE59E⟩ := by decide

/-- V95. -/
theorem test_ld_vx_dt : (run (State.reset.setDt 0x3C) 0xF307).reg 3 = 0x3C := by decide

/-- V96. -/
theorem test_ld_dt_vx : (run (regs [(0, 0x3C)]) 0xF015).dt = 0x3C := by decide

/-- V97. -/
theorem test_ld_st_vx : (run (regs [(1, 0x10)]) 0xF118).st = 0x10 := by decide

/-- V98: the step only begins the wait. -/
theorem test_wait_begins :
    (run (State.reset.setKey 3 true) 0xF00A).awaitingKey = true ∧
      (run (State.reset.setKey 3 true) 0xF00A).reg 0 = 0 ∧
      (run (State.reset.setKey 3 true) 0xF00A).pc = 0x202 := by decide

/-- V99: the next step ends it. -/
theorem test_wait_ends :
    ((run (State.reset.setKey 3 true) 0xF00A).after .step).reg 0 = 3 ∧
      ((run (State.reset.setKey 3 true) 0xF00A).after .step).pc = 0x202 := by decide

/-- V102, V103, V104. -/
theorem test_tick :
    (State.reset.setDt 2).tick.dt = 1 ∧ (State.reset.setSt 1).tick.st = 0 ∧
      ((State.reset.after .step).setDt 5).tick.dt = 4 := by decide

/-! ### Index and memory (V110–V127) -/

/-- V110. -/
theorem test_ld_i : (run State.reset 0xA300).index = 0x300 := by decide

/-- V112. -/
theorem test_add_i_no_flag :
    (run ((regs [(2, 1), (15, 0x55)]).setIndex 0xFFF) 0xF21E).index = 0x1000 ∧
      (run ((regs [(2, 1), (15, 0x55)]).setIndex 0xFFF) 0xF21E).reg 15 = 0x55 := by decide

/-- V113. -/
theorem test_add_i_wraps : (run ((regs [(2, 1)]).setIndex 0xFFFF) 0xF21E).index = 0x0000 := by decide

/-- V114, V116: the glyph number is not masked. -/
theorem test_ld_f :
    (run (regs [(10, 0x0A)]) 0xFA29).index = 0x082 ∧ (run (regs [(10, 0xFF)]) 0xFA29).index = 0x54B := by
  decide

/-- V117. -/
theorem test_bcd :
    [0x300, 0x301, 0x302].map (run ((regs [(10, 156)]).setIndex 0x300) 0xFA33).byteAt = [1, 5, 6] := by
  decide

/-- V121: nothing is written. -/
theorem test_bcd_out_of_range :
    run ((regs [(10, 1)]).setIndex 0xFFE) 0xFA33 =
      { withWord ((regs [(10, 1)]).setIndex 0xFFE) 0xFA33 with
        fault := some ⟨.memOutOfBounds 0x1000, 0x200, some 0xFA33⟩ } := by decide

/-- V122. -/
theorem test_store_regs :
    [0x300, 0x301, 0x302, 0x303].map
      (run ((regs [(0, 1), (1, 2), (2, 3), (3, 9)]).setIndex 0x300) 0xF255).byteAt = [1, 2, 3, 0] := by
  decide

/-- V124. -/
theorem test_store_regs_out_of_range :
    (run (State.reset.setIndex 0xFF1) 0xFF55).fault =
      some ⟨.memOutOfBounds 0x1000, 0x200, some 0xFF55⟩ := by decide

/-- V125. -/
theorem test_load_regs :
    [0, 1, 2, 3].map
      (run ((State.reset.storeBytes 0x300 [1, 5, 6, 7]).setIndex 0x300) 0xF265).reg =
      [1, 5, 6, 0] := by decide

/-- V127. -/
theorem test_load_regs_out_of_range :
    (run (State.reset.setIndex 0x1000) 0xF065).fault =
      some ⟨.memOutOfBounds 0x1000, 0x200, some 0xF065⟩ := by decide

/-! ### Reset and the loader (V130–V132, S8) -/

/-- S8, R123. -/
theorem test_reset_font :
    [0x050, 0x051, 0x052, 0x053, 0x054, 0x04F, 0x0A0].map State.reset.byteAt =
      [0xF0, 0x90, 0x90, 0x90, 0xF0, 0x00, 0x00] := by decide

/-- V131. -/
theorem test_load_rom :
    (State.reset.loadRom [0x12, 0x00]).2 = .loaded ∧
      (State.reset.loadRom [0x12, 0x00]).1.byteAt 0x200 = 0x12 := by decide

/-- V132. -/
theorem test_load_rom_too_large :
    State.reset.loadRom (List.replicate 3585 1) = (State.reset, .romTooLarge) := by
  unfold State.loadRom
  rw [if_pos (by rw [List.length_replicate]; decide)]

/-! ### Witnesses: the hypotheses of each statement are met -/

theorem witness_decode_of_encode :
    (Instr.sys 0xFFF).wf = true ∧ (Instr.drw 15 15 15).wf = true := by decide

/-- For EncodeOfDecodeKeepsUsedBits and DecodedWordMatchesItsRow: a word with ignored bits set. -/
theorem witness_decoded_word : decode 0x8AF6 = .ok (.shr 10) := by decide

theorem witness_word_that_selects_nothing (i : Instr) : decode 0x8008 ≠ .ok i := by
  rw [test_decode_selects_nothing.1]
  exact nofun

theorem witness_word_that_selects_sys : decode 0x0123 = .ok (.sys 0x123) := by decide

/-- A state fetches the word placed at its PC. -/
theorem fetches_reset_word : (withWord State.reset 0x2210).Fetches 0x2210 :=
  ⟨rfl, rfl, by decide, by decide, by decide⟩

/-- For StepRunsTheDecodedInstruction: an answer with no fault, and one with a fault. -/
theorem witness_step_runs :
    ((withWord State.reset 0x2210).Fetches 0x2210 ∧ decode 0x2210 = .ok (.call 0x210) ∧
      ∃ t, exec (.call 0x210) ((withWord State.reset 0x2210).preAdvanced 0x2210) = .next t ∧
        t.fault = none) ∧
    (State.reset.Fetches 0x0000 ∧ decode 0x0000 = .ok (.sys 0) ∧
      ∃ t, exec (.sys 0) (State.reset.preAdvanced 0x0000) = .next t ∧ t.fault ≠ none) :=
  ⟨⟨fetches_reset_word, by decide, _, rfl, rfl⟩,
    ⟨rfl, rfl, by decide, by decide, by decide⟩, by decide, _, rfl, nofun⟩

theorem witness_illegal_word :
    (withWord State.reset 0x8008).Fetches 0x8008 ∧ ∀ i, decode 0x8008 ≠ .ok i :=
  ⟨⟨rfl, rfl, by decide, by decide, by decide⟩, witness_word_that_selects_nothing⟩

/-- For BadFetchFaults: an odd PC, and the first even PC that is out of bounds. -/
theorem witness_bad_fetch :
    State.reset.fault = none ∧ State.reset.awaitingKey = false ∧
      (State.reset.setPc 0xFFF).pc.toNat % 2 = 1 ∧
      (State.reset.setPc 0x1000).pc.toNat % 2 = 0 ∧ 0xFFE < (State.reset.setPc 0x1000).pc.toNat := by
  decide

theorem witness_faulted_core :
    (State.reset.after .step).fault = some ⟨.unsupportedSys, 0x200, some 0x0000⟩ := by decide

/-- For WaitWithNoKeyChangesNothing. -/
theorem witness_wait_with_no_key :
    (State.reset.beginWait 15).fault = none ∧ (State.reset.beginWait 15).awaitingKey = true ∧
      ∀ k : Reg, (State.reset.beginWait 15).key[k] = false := by decide

/-- For WaitEndsWithAPressedKey: V101, two keys down. -/
theorem witness_wait_with_two_keys :
    (((State.reset.beginWait 15).setKey 2 true).setKey 9 true).fault = none ∧
      (((State.reset.beginWait 15).setKey 2 true).setKey 9 true).awaitingKey = true ∧
      ∃ k : Reg, (((State.reset.beginWait 15).setKey 2 true).setKey 9 true).key[k] = true := by
  decide

/-- For FaultIsPrecise and StepAnswersUnlessFaulted. -/
theorem witness_fault_is_precise :
    State.reset.fault = none ∧ step State.reset = .next (State.reset.after .step) ∧
      (State.reset.after .step).fault = some ⟨.unsupportedSys, 0x200, some 0x0000⟩ :=
  ⟨rfl, rfl, by decide⟩

theorem witness_faults_per_instruction :
    State.reset.fault = none ∧ ∃ t r, exec .ret State.reset = .next t ∧ t.fault = some r :=
  ⟨rfl, _, _, rfl, rfl⟩

/-- The invariant holds where a step fetches and runs `LD V0, 1`. -/
theorem witness_step_keeps_invariant :
    (withWord State.reset 0x6001).Inv ∧
      ∃ t, step (withWord State.reset 0x6001) = .next t :=
  ⟨⟨by decide, by decide, by decide, nofun⟩, _, rfl⟩

/-- For HostTransactionsKeepTheInvariant: an unfaulted core. -/
theorem witness_host_transactions :
    (withWord State.reset 0x6001).Inv ∧ (withWord State.reset 0x6001).fault = none :=
  ⟨witness_step_keeps_invariant.1, rfl⟩

theorem witness_admissible_run :
    admissible [.construct, .tick, .loadRom [0x12, 0x00], .step, .setKey 3 true, .step,
      .readFramebuffer] = true := by decide

/-- For CallPushesTheReturnAddress: the last depth that pushes, and the first that does not. -/
theorem witness_call_depths : (depth 15).sp.val < 16 ∧ (depth 16).sp = 16 := by decide

/-- For ReturnPopsTheReturnAddress: the full stack, one entry, and none. -/
theorem witness_return_depths :
    (depth 16).sp.val = (15 : Fin 16).val + 1 ∧ (depth 1).sp.val = (0 : Fin 16).val + 1 ∧
      (depth 0).sp = 0 := by decide

/-- For CallThenReturnComesBack: S6 at the reset PC, with `RET` at the target. -/
theorem witness_call_then_return :
    ((withWord State.reset 0x2210).storeBytes 0x210 [0x00, 0xEE]).Fetches 0x2210 ∧
      decode 0x2210 = .ok (.call 0x210) ∧
      ((withWord State.reset 0x2210).storeBytes 0x210 [0x00, 0xEE]).sp.val < 16 ∧
      (((withWord State.reset 0x2210).storeBytes 0x210 [0x00, 0xEE]).after .step).Fetches 0x00EE ∧
      decode 0x00EE = .ok .ret :=
  ⟨⟨rfl, rfl, by decide, by decide, by decide⟩, by decide, by decide,
    ⟨rfl, rfl, by decide, by decide, by decide⟩, by decide⟩

/-- A word is its two bytes, and a state fetches the word placed at an even PC inside memory. -/
theorem fetches_any_word (w : Word) : (withWord (depth 15) w).Fetches w := by
  have hpc : (withWord (depth 15) w).pc = 0x200 := rfl
  refine ⟨rfl, rfl, by rw [hpc]; decide, by rw [hpc]; decide, ?_⟩
  change w = (withWord (depth 15) w).byteAt 0x200 ++ (withWord (depth 15) w).byteAt 0x201
  simp only [withWord, State.byteAt_storeBytes]
  change w = w.extractLsb' 8 8 ++ w.extractLsb' 0 8
  apply BitVec.eq_of_toNat_eq
  have := w.isLt
  simp only [BitVec.toNat_append, BitVec.extractLsb'_toNat, Nat.shiftLeft_eq]
  rw [Nat.mul_comm, ← Nat.two_pow_add_eq_or_of_lt (Nat.mod_lt _ (by decide))]
  omega

/-- For PcAfterEveryStep: a word for each of its clauses that runs without a fault. -/
theorem witness_pc_after_jump :
    (run (depth 15) 0x1345).fault = none ∧ (run (depth 15) 0x2210).fault = none ∧
      (run (depth 15) 0xB201).fault = none ∧ (run (depth 15) 0x00EE).fault = none := by decide

theorem witness_pc_after_skip :
    (run (depth 15) 0x3000).fault = none ∧ (run (depth 15) 0x4001).fault = none ∧
      (run (depth 15) 0x5120).fault = none ∧ (run (depth 15) 0x9120).fault = none := by decide

theorem witness_pc_after_key_skip :
    (run (depth 15) 0xE59E).fault = none ∧ (run (depth 15) 0xE5A1).fault = none := by decide

/-- The last address a step fetches from. -/
theorem witness_pc_at_the_top :
    (withWord (State.reset.setPc 0xFFE) 0x6001).Fetches 0x6001 ∧
      (run (State.reset.setPc 0xFFE) 0x6001).fault = none :=
  ⟨⟨rfl, rfl, by decide, by decide, by decide⟩, by decide⟩

theorem witness_idle : (withWord State.reset 0x1200).IdleAt 0x200 :=
  ⟨rfl, rfl, by decide, by decide, by decide, by decide⟩

/-- For SkipsOnKey: the last key, and the first index that names none. -/
theorem witness_key_indices :
    ((regs [(5, 15)]).reg 5).toNat = (15 : Reg).val ∧ 15 < ((regs [(5, 16)]).reg 5).toNat := by decide

/-- For BcdStoresThreeDigits: the last I that fits (V120), and the first that does not (V121). -/
theorem witness_bcd_ranges :
    (State.reset.setIndex 0xFFD).index.toNat + 2 ≤ 0xFFF ∧
      0xFFF < (State.reset.setIndex 0xFFE).index.toNat + 2 := by decide

/-- For StoreRegistersToMemory and LoadRegistersFromMemory: V123 and V124, and V127 with x = 0. -/
theorem witness_register_block_ranges :
    (State.reset.setIndex 0xFF0).index.toNat + (15 : Reg).val ≤ 0xFFF ∧
      0xFFF < (State.reset.setIndex 0xFF1).index.toNat + (15 : Reg).val ∧
      (State.reset.setIndex 0xFFF).index.toNat + (0 : Reg).val ≤ 0xFFF ∧
      0xFFF < (State.reset.setIndex 0x1000).index.toNat + (0 : Reg).val := by decide

/-- For DrawInvertsCoveredPixels: V81, the last row that fits, and V76, no bytes at an I past memory;
with a covered pixel on (V72), and with none on. -/
theorem witness_draw_fits :
    (((regs [(1, 31)]).setIndex 0x050).bytesFit (1 : Nibble).toNat ∧
      ((regs [(1, 31)]).setIndex 0x050).rowsFit 1 1) ∧
    ((State.reset.setIndex 0x2000).bytesFit (0 : Nibble).toNat ∧
      (State.reset.setIndex 0x2000).rowsFit 1 0) ∧
    (∃ r c, (pixelOn (State.reset.setIndex 0x050) 0 2).covers .fault 0 1 1 r c = true ∧
      (pixelOn (State.reset.setIndex 0x050) 0 2).fb.pixel r c = true) ∧
    (∀ r c, (State.reset.setIndex 0x050).covers .fault 0 1 1 r c = true →
      (State.reset.setIndex 0x050).fb.pixel r c = false) :=
  ⟨⟨.inr (by decide), .inr (by decide)⟩, ⟨.inl (by decide), .inl (by decide)⟩,
    ⟨0, 2, by decide, by decide⟩, fun r c _ => by simp [Framebuffer.pixel, State.setIndex, State.reset]⟩

/-- For DrawOutOfRangeFaults: the first I whose bytes do not fit, and bytes that fit with the first row
that does not. -/
theorem witness_draw_does_not_fit :
    ¬ (State.reset.setIndex 0xFFC).bytesFit (5 : Nibble).toNat ∧
      ((regs [(1, 28)]).setIndex 0xFFB).bytesFit (5 : Nibble).toNat ∧
      ¬ ((regs [(1, 28)]).setIndex 0xFFB).rowsFit 1 5 := by
  unfold State.bytesFit State.rowsFit
  decide

/-- For DrawUnderClipAndWrap: V78 and V79. -/
theorem witness_draw_policies :
    Config.RowPolicy.clip ≠ .fault ∧ Config.RowPolicy.wrap ≠ .fault ∧
      ((regs [(1, 30)]).setIndex 0x050).bytesFit (5 : Nibble).toNat := by
  unfold State.bytesFit
  decide

/-- For DrawTwiceRestoresTheScreen: S4's program P3. -/
theorem witness_draw_twice :
    (0 : Reg) ≠ 15 ∧ (State.reset.setIndex 0x050).bytesFit (5 : Nibble).toNat ∧
      (State.reset.setIndex 0x050).rowsFit 0 5 := by
  unfold State.bytesFit State.rowsFit
  decide

/-- For the frames: an instruction that answers, a register it does not write, an address below and one
above the bytes it stores. -/
theorem witness_frames :
    (∃ t, exec (.addReg 1 2) State.reset = .next t) ∧ (Instr.addReg 1 2).writesReg 3 = false ∧
      (∃ t, exec (.ldB 1) (State.reset.setIndex 0x300) = .next t) ∧
      (0x2FF : Nat) < (State.reset.setIndex 0x300).index.toNat ∧
      (State.reset.setIndex 0x300).index.toNat + (Instr.ldB 1).storeLength ≤ 0x303 :=
  ⟨⟨_, rfl⟩, by decide, ⟨_, rfl⟩, by decide, by decide⟩

/-- For SpecialStateHasItsOwnWriters: each kind of state does change. -/
theorem witness_special_writers :
    (run State.reset 0xA300).index ≠ State.reset.index ∧
      (run State.reset 0x2210).stack ≠ State.reset.stack ∧
      (run State.reset 0x2210).sp ≠ State.reset.sp ∧
      (run (regs [(0, 1)]) 0xF015).dt ≠ State.reset.dt ∧
      (run (regs [(0, 1)]) 0xF018).st ≠ State.reset.st ∧
      (run State.reset 0xF00A).awaitingKey ≠ State.reset.awaitingKey ∧
      (run State.reset 0xC000).draws ≠ State.reset.draws := by decide

/-- For FramebufferReadersAndWriters: an instruction that is no draw, and one that changes the screen. -/
theorem witness_framebuffer :
    (∀ x y n, Instr.cls ≠ .drw x y n) ∧
      (∃ t, exec .cls (pixelOn State.reset 0 0) = .next t ∧ t.fb ≠ (pixelOn State.reset 0 0).fb) :=
  ⟨nofun, _, rfl, by decide⟩

theorem witness_sound_timer : ∃ t, exec (.ldStVx 1) State.reset = .next t := ⟨_, rfl⟩

/-- For StepNeverTicksOrTouchesKeys: a step that changes DT, and one that changes ST. -/
theorem witness_step_writes_timer :
    (∃ t, step (withWord (regs [(0, 0x3C)]) 0xF015) = .next t) ∧
      (run (regs [(0, 0x3C)]) 0xF015).dt ≠ State.reset.dt ∧
      (∃ t, step (withWord (regs [(0, 0x3C)]) 0xF018) = .next t) ∧
      (run (regs [(0, 0x3C)]) 0xF018).st ≠ State.reset.st :=
  ⟨⟨_, rfl⟩, by decide, ⟨_, rfl⟩, by decide⟩

/-- For LoadRomIsAllOrNothing: S9's two lengths. -/
theorem witness_rom_lengths :
    (List.replicate 3584 (1 : Byte)).length ≤ 3584 ∧
      3584 < (List.replicate 3585 (1 : Byte)).length := by
  rw [List.length_replicate, List.length_replicate]
  decide

end Sys2Proof.Tests
end

section
/-! SUPPORT. What an instruction's handler answers, said once for all 35: it raises a fault whose condition
holds in the state it saw, or it carries on to an unfaulted state whose PC and stack entries are of a few
known forms (42_control_flow.md R71–R79, 60_exceptions.md R106–R109). -/

namespace Sys2Proof.Machine

/-- The condition under which instruction `i` raises the kind `k` in the state its handler sees (R106,
R107). It is what `FaultFits` asks of the decoded word, said of the instruction. -/
def RaiseFits (i : Instr) (s : State) (k : FaultKind) : Prop :=
  match k with
  | .misalignedPc => False
  | .fetchOutOfBounds => False
  | .illegalOpcode => False
  | .unsupportedSys => ∃ nnn, i = .sys nnn
  | .stackOverflow => s.sp = 16 ∧ ∃ nnn, i = .call nnn
  | .stackUnderflow => s.sp = 0 ∧ i = .ret
  | .memOutOfBounds last =>
    0 < i.accessLength ∧ 0xFFF < last ∧ last + 1 = s.index.toNat + i.accessLength
  | .drawRowOverflow row =>
    31 < row ∧ ∃ x y n, i = .drw x y n ∧ row + 1 = (s.reg y).toNat % 32 + n.toNat
  | .keyIndexOutOfRange b => 15 < b.toNat ∧ ∃ x, s.reg x = b ∧ (i = .skp x ∨ i = .sknp x)

/-- What a handler that raises nothing leaves of the parts the invariant speaks of. -/
structure CarriesOn (s u : State) : Prop where
  /-- no record is written -/
  fault : u.fault = s.fault
  /-- memory stays in canonical form -/
  mem : s.mem.wf = true → u.mem.wf = true
  /-- PC is kept, passes a word (R57), is in reach of a jump (R73, R79), or was on the stack (R72) -/
  pc : u.pc = s.pc ∨ u.pc = s.pc + 2 ∨ u.pc.toNat ≤ 0x10FE ∨ ∃ j : Fin 16, u.pc = s.stack[j]
  /-- an entry is kept, or is the PC pushed (R74) -/
  stack : ∀ j : Fin 16, u.stack[j] = s.stack[j] ∨ u.stack[j] = s.pc

theorem CarriesOn.of_frame {s u : State} (hfault : u.fault = s.fault) (hmem : u.mem = s.mem)
    (hpc : u.pc = s.pc) (hstack : u.stack = s.stack) : CarriesOn s u where
  fault := hfault
  mem := by rw [hmem]; exact id
  pc := .inl hpc
  stack j := .inl (by rw [hstack])

/-- The two answers of a handler. -/
def Answers (i : Instr) (s : State) (r : Result) : Prop :=
  (∃ k, RaiseFits i s k ∧ r = s.raise k) ∨ ∃ u, CarriesOn s u ∧ r = .next u

section Answers

variable {i : Instr} {s u : State}

theorem CarriesOn.answers (h : CarriesOn s u) : Answers i s (.next u) := .inr ⟨u, h, rfl⟩

/-- An instruction that leaves memory, PC, stack and record alone carries on. -/
theorem answers_frame (hfault : u.fault = s.fault) (hmem : u.mem = s.mem) (hpc : u.pc = s.pc)
    (hstack : u.stack = s.stack) : Answers i s (.next u) :=
  (CarriesOn.of_frame hfault hmem hpc hstack).answers

theorem answers_raise {k : FaultKind} (h : RaiseFits i s k) : Answers i s (s.raise k) :=
  .inl ⟨k, h, rfl⟩

theorem answers_setPc {p : Word} (h : p.toNat ≤ 0x10FE) : Answers i s (.next (s.setPc p)) :=
  CarriesOn.answers
    { fault := rfl, mem := id, pc := .inr (.inr (.inl h)), stack := fun _ => .inl rfl }

theorem answers_skipIf (c : Bool) : Answers i s (.next (s.skipIf c)) :=
  CarriesOn.answers
    { fault := s.skipIf_fault c
      mem := by rw [State.skipIf_mem]; exact id
      pc := by
        rw [State.skipIf_pc]
        cases c
        · exact .inl rfl
        · exact .inr (.inl rfl)
      stack := fun _ => .inl (by rw [State.skipIf_stack]) }

theorem answers_storeBytes {a : Nat} {bytes : List Byte} (h : a + bytes.length ≤ 0x1000) :
    Answers i s (.next (s.storeBytes a bytes)) :=
  CarriesOn.answers
    { fault := rfl, mem := fun hm => Memory.writeBytes_wf hm h, pc := .inl rfl,
      stack := fun _ => .inl rfl }

/-- Behind a range check of the instruction's own access, only an access that fits is left (R34). -/
theorem answers_checkRange {len : Nat} {r : Result} (hlen : i.accessLength = len)
    (h : len = 0 ∨ s.base + len ≤ 0x1000 → Answers i s r) :
    Answers i s (s.checkRange s.base len r) := by
  rcases s.checkRange_cases s.base len r with ⟨hlast, hpos, heq⟩ | ⟨hfits, heq⟩
  · rw [heq]
    have hsum : s.base + len - 1 + 1 = s.base + len := by omega
    exact answers_raise ⟨by omega, hlast, by rw [hsum, hlen]; rfl⟩
  · rw [heq]
    exact h hfits

/-- A key test skips, or finds an index above 15 (R93, R94). -/
theorem answers_withKey {x : Reg} (hi : i = .skp x ∨ i = .sknp x) (c : Bool → Bool) :
    Answers i s (s.withKey x (fun pressed => .next (s.skipIf (c pressed)))) := by
  rcases s.withKey_cases x (fun pressed => .next (s.skipIf (c pressed))) with
    ⟨hhigh, heq⟩ | ⟨hlow, heq⟩
  · rw [heq]
    exact answers_raise ⟨hhigh, x, rfl, hi⟩
  · rw [heq]
    exact answers_skipIf _

end Answers

theorem toNat_addr12_le (nnn : Imm12) : (addr12 nnn).toNat ≤ 0xFFF := by
  have := nnn.isLt
  simp only [addr12, BitVec.toNat_setWidth]
  omega

/-- `JP V0, nnn` reaches at most 0x10FE (R79). -/
theorem State.toNat_offsetTarget_le (s : State) (nnn : Imm12) :
    (s.offsetTarget nnn).toNat ≤ 0x10FE := by
  have hv := (s.reg 0).isLt
  have ha := toNat_addr12_le nnn
  simp only [State.offsetTarget, State.regWord, BitVec.toNat_add, BitVec.toNat_setWidth]
  omega

theorem execCall_answers (nnn : Imm12) (s : State) : Answers (.call nnn) s (execCall nnn s) := by
  unfold execCall
  rcases s.push_cases s.pc (fun t => .next (t.setPc (addr12 nnn))) with ⟨hfull, heq⟩ | ⟨hroom, heq⟩
  · rw [heq]
    exact answers_raise ⟨hfull, nnn, rfl⟩
  · rw [heq]
    have htarget := toNat_addr12_le nnn
    refine CarriesOn.answers { fault := rfl, mem := id, pc := .inr (.inr (.inl ?_)), stack := ?_ }
    · rw [State.setPc_pc]
      omega
    · intro j
      by_cases hj : s.sp.val = j.val
      · exact .inr (by simp [hj])
      · exact .inl (by simp [Vector.getElem_set_ne, hj])

theorem execRet_answers (s : State) : Answers .ret s (execRet s) := by
  unfold execRet
  rcases s.pop_cases (fun a t => .next (t.setPc a)) with ⟨hempty, heq⟩ | ⟨j, hj, _, heq⟩
  · rw [heq]
    exact answers_raise ⟨hempty, rfl⟩
  · rw [heq]
    exact CarriesOn.answers
      { fault := rfl, mem := id, pc := .inr (.inr (.inr ⟨⟨j, hj⟩, rfl⟩)),
        stack := fun _ => .inl rfl }

/-- A draw checks its bytes, then its rows, then only writes pixels and VF (R70, R109). -/
theorem execDrw_answers (x y : Reg) (n : Nibble) (s : State) :
    Answers (.drw x y n) s (execDrw x y n s) := by
  unfold execDrw State.drawUnder
  refine answers_checkRange rfl fun _ => ?_
  split
  · rename_i hover
    simp only [State.rowsOverflow, Bool.and_eq_true, decide_eq_true_eq] at hover
    obtain ⟨⟨_, hpos⟩, hlast⟩ := hover
    refine answers_raise ⟨hlast, x, y, n, rfl, ?_⟩
    simp only [State.lastRow, State.startRow]
    omega
  · exact answers_frame rfl rfl rfl rfl

/-- Every handler raises a fault whose condition holds, or carries on (R59, R106). -/
theorem exec_answers (i : Instr) (s : State) : Answers i s (exec i s) := by
  cases i with
  | sys nnn => exact answers_raise (k := .unsupportedSys) ⟨nnn, rfl⟩
  | ret => exact execRet_answers s
  | call nnn => exact execCall_answers nnn s
  | jp nnn => exact answers_setPc ((toNat_addr12_le nnn).trans (by decide))
  | jpV0 nnn => exact answers_setPc (s.toNat_offsetTarget_le nnn)
  | seImm _ _ | sneImm _ _ | seReg _ _ | sneReg _ _ => exact answers_skipIf _
  | skp x => exact answers_withKey (.inl rfl) id
  | sknp x => exact answers_withKey (.inr rfl) not
  | drw x y n => exact execDrw_answers x y n s
  | ldB x =>
    refine answers_checkRange rfl fun hfits => answers_storeBytes ?_
    rw [length_bcdDigits]
    omega
  | storeRegs x =>
    refine answers_checkRange rfl fun hfits => answers_storeBytes ?_
    rw [State.length_regsTo]
    omega
  | loadRegs x =>
    refine answers_checkRange rfl fun _ => ?_
    exact answers_frame (s.loadRegsFrom_fault x s.base) (s.loadRegsFrom_mem x s.base)
      (s.loadRegsFrom_pc x s.base) (s.loadRegsFrom_stack x s.base)
  | cls | ldImm _ _ | addImm _ _ | ldReg _ _ | orReg _ _ | andReg _ _ | xorReg _ _ | addReg _ _
  | subReg _ _ | shr _ | subn _ _ | shl _ | rnd _ _ | ldI _ | addI _ | ldF _ | ldVxDt _ | ldVxK _
  | ldDtVx _ | ldStVx _ => exact answers_frame rfl rfl rfl rfl

end Sys2Proof.Machine
end

section
/-! SUPPORT. The invariant: reset meets it, and every step and every transaction of the host keeps it. -/

namespace Sys2Proof.Machine

/-! ### Ways to meet the invariant -/

/-- `Construct()` establishes the invariant (R123). -/
theorem reset_inv : State.reset.Inv := ⟨by decide, by decide, by decide, nofun⟩

/-- Without a record, only memory, PC and the stack are left to check. -/
theorem State.inv_of_unfaulted {s : State} (hf : s.fault = none) (hmem : s.mem.wf = true)
    (hpc : s.pc.toNat ≤ 0x10FE)
    (hstack : ∀ j : Fin 16, s.stack[j].toNat % 2 = 0 ∧ s.stack[j].toNat ≤ 0x1000) : s.Inv :=
  ⟨hmem, hpc, hstack, by simp [hf]⟩

/-- Recording a fault that fits, on a core that waits for no key, keeps the invariant. -/
theorem State.Inv.record {s : State} {record : FaultRecord} (hs : s.Inv)
    (hw : s.awaitingKey = false) (hfits : FaultFits s record) :
    { s with fault := some record }.Inv := by
  obtain ⟨hmem, hpc, hstack, _⟩ := hs
  refine ⟨hmem, hpc, hstack, fun r hr => ?_⟩
  cases hr
  exact ⟨hw, hfits⟩

/-- Whether a record fits depends on memory, PC, registers, I and SP alone. -/
theorem FaultFits.congr {s t : State} {record : FaultRecord} (hfits : FaultFits s record)
    (hmem : t.mem = s.mem) (hpc : t.pc = s.pc) (hv : t.v = s.v) (hindex : t.index = s.index)
    (hsp : t.sp = s.sp) : FaultFits t record := by
  unfold FaultFits State.byteAt State.reg at *
  rw [hmem, hpc, hv, hindex, hsp]
  exact hfits

/-! ### Steps -/

theorem State.Fetches.fault_eq_none {s : State} {w : Word} (h : s.Fetches w) : s.fault = none := by
  obtain ⟨hf, _⟩ := h
  exact hf

theorem State.Fetches.awaitingKey_eq_false {s : State} {w : Word} (h : s.Fetches w) :
    s.awaitingKey = false := by
  obtain ⟨_, hw, _⟩ := h
  exact hw

theorem State.Fetches.toNat_pc_add_two {s : State} {w : Word} (h : s.Fetches w) :
    (s.pc + 2).toNat = s.pc.toNat + 2 := by
  obtain ⟨_, _, _, htop, _⟩ := h
  bv_omega

/-- A handler's fault undoes the step but for its record (R59, R64). -/
theorem State.settle_of_raise {s u : State} {w : Word} {k : FaultKind}
    (h : (s.preAdvanced w).raise k = .next u) :
    s.settle u = { s with fault := some ⟨k, s.pc, some w⟩ } := by
  rw [State.raise_eq] at h
  cases h
  simp [State.settle, State.preAdvanced]

/-- The condition a handler raised under is the one the record of the fetched word needs. -/
theorem RaiseFits.faultFits {s : State} {w : Word} {i : Instr} {k : FaultKind} (hF : s.Fetches w)
    (hd : decode w = .ok i) (h : RaiseFits i (s.preAdvanced w) k) :
    FaultFits s ⟨k, s.pc, some w⟩ := by
  obtain ⟨_, _, heven, htop, hword⟩ := hF
  refine ⟨rfl, heven, htop, hword, ?_⟩
  cases k with
  | misalignedPc => exact h
  | fetchOutOfBounds => exact h
  | illegalOpcode => exact h.elim
  | unsupportedSys =>
    obtain ⟨nnn, rfl⟩ := h
    exact ⟨nnn, hd⟩
  | stackOverflow =>
    obtain ⟨hsp, nnn, rfl⟩ := h
    exact ⟨hsp, nnn, hd⟩
  | stackUnderflow =>
    obtain ⟨hsp, rfl⟩ := h
    exact ⟨hsp, hd⟩
  | memOutOfBounds last =>
    obtain ⟨_, hlast, hsum⟩ := h
    exact ⟨hlast, i, hd, hsum⟩
  | drawRowOverflow row =>
    obtain ⟨hrow, x, y, n, rfl, hsum⟩ := h
    exact ⟨hrow, x, y, n, hd, hsum⟩
  | keyIndexOutOfRange b =>
    obtain ⟨hb, x, hx, rfl | rfl⟩ := h
    · exact ⟨hb, x, hx, .inl hd⟩
    · exact ⟨hb, x, hx, .inr hd⟩

/-- A handler that carries on keeps the invariant: it saw PC = p + 2, even and at most 0x1000 (R60). -/
theorem CarriesOn.inv {s u : State} {w : Word} (h : CarriesOn (s.preAdvanced w) u)
    (hs : s.Inv) (hF : s.Fetches w) : u.Inv := by
  have hnext := hF.toNat_pc_add_two
  obtain ⟨hf, _, heven, htop, _⟩ := hF
  obtain ⟨hmem, _, hstack, _⟩ := hs
  refine State.inv_of_unfaulted (h.fault.trans hf) (h.mem hmem) ?_ fun j => ?_
  · rcases h.pc with hpc | hpc | hpc | ⟨j, hpc⟩
    · rw [hpc]
      simp only [State.preAdvanced]
      omega
    · rw [hpc]
      simp only [State.preAdvanced]
      bv_omega
    · exact hpc
    · rw [hpc]
      exact (hstack j).2.trans (by decide)
  · rcases h.stack j with hj | hj
    · rw [hj]
      exact hstack j
    · rw [hj]
      simp only [State.preAdvanced]
      omega

/-- A step that fetched and ran an instruction keeps the invariant. -/
theorem State.Inv.settle_exec {s u : State} {w : Word} {i : Instr} (hs : s.Inv) (hF : s.Fetches w)
    (hd : decode w = .ok i) (hu : exec i (s.preAdvanced w) = .next u) : (s.settle u).Inv := by
  rcases exec_answers i (s.preAdvanced w) with ⟨k, hk, heq⟩ | ⟨u', hc, heq⟩
  · rw [State.settle_of_raise (heq.symm.trans hu)]
    exact hs.record hF.awaitingKey_eq_false (hk.faultFits hF hd)
  · cases heq.symm.trans hu
    rw [State.settle_of_none s (hc.fault.trans hF.fault_eq_none)]
    exact hc.inv hs hF

theorem State.Inv.resolveKeyWait {s : State} (hs : s.Inv) (hf : s.fault = none) :
    s.resolveKeyWait.Inv := by
  rcases s.resolveKeyWait_cases with ⟨_, heq⟩ | ⟨k, _, heq⟩
  · rw [heq]
    exact hs
  · rw [heq]
    obtain ⟨hmem, hpc, hstack, _⟩ := hs
    exact State.inv_of_unfaulted hf hmem hpc hstack

/-- Every step keeps the invariant. -/
theorem State.Inv.step {s t : State} (hs : s.Inv) (h : step s = .next t) : t.Inv := by
  cases hf : s.fault with
  | some record => simp [step_of_fault hf] at h
  | none =>
    rcases step_cases hf h with ⟨_, rfl⟩ | ⟨hw, hodd, rfl⟩ | ⟨hw, heven, hhigh, rfl⟩ |
      ⟨w, ⟨_, hw, heven, htop, hword⟩, hnone, rfl⟩ | ⟨w, i, u, hF, hd, hu, rfl⟩
    · exact hs.resolveKeyWait hf
    · exact hs.record hw ⟨rfl, .inl ⟨rfl, hodd⟩⟩
    · exact hs.record hw ⟨rfl, .inr ⟨rfl, heven, hhigh⟩⟩
    · exact hs.record hw ⟨rfl, heven, htop, hword, hnone⟩
    · exact hs.settle_exec hF hd hu

/-! ### The host's transactions -/

theorem State.Inv.tick {s : State} (hs : s.Inv) : s.tick.Inv := by
  obtain ⟨hmem, hpc, hstack, hfault⟩ := hs
  refine ⟨hmem, hpc, hstack, fun r hr => ?_⟩
  obtain ⟨hw, hfits⟩ := hfault r hr
  exact ⟨hw, hfits.congr rfl rfl rfl rfl rfl⟩

theorem State.Inv.setKey {s : State} (hs : s.Inv) (k : Reg) (b : Bool) : (s.setKey k b).Inv := by
  obtain ⟨hmem, hpc, hstack, hfault⟩ := hs
  refine ⟨hmem, hpc, hstack, fun r hr => ?_⟩
  obtain ⟨hw, hfits⟩ := hfault r hr
  exact ⟨hw, hfits.congr rfl rfl rfl rfl rfl⟩

theorem State.loadRom_fault (s : State) (bytes : List Byte) :
    (s.loadRom bytes).1.fault = s.fault := by
  unfold State.loadRom
  split
  · rfl
  · rfl

/-- A load on an unfaulted core keeps the invariant: what fits from 0x200 stays inside memory (R126). -/
theorem State.Inv.loadRom {s : State} (hs : s.Inv) (hf : s.fault = none) (bytes : List Byte) :
    (s.loadRom bytes).1.Inv := by
  unfold State.loadRom
  split
  · exact hs
  · rename_i hlen
    simp only [Config.memSize, Config.programBase] at hlen
    obtain ⟨hmem, hpc, hstack, _⟩ := hs
    refine State.inv_of_unfaulted hf (Memory.writeBytes_wf hmem ?_) hpc hstack
    simp only [Config.memSize, Config.programBase]
    omega

/-- Every transaction keeps the invariant, a load where no fault is recorded. -/
theorem State.Inv.after {s : State} (hs : s.Inv) {a : Transaction}
    (hload : ∀ bytes, a = .loadRom bytes → s.fault = none) : (s.after a).Inv := by
  cases a with
  | step =>
    unfold State.after
    cases h : Machine.step s with
    | next t => exact hs.step h
    | fault f => exact hs
    | refused q => exact hs
  | tick => exact hs.tick
  | setKey k b => exact hs.setKey k b
  | readFramebuffer => exact hs
  | loadRom bytes => exact hs.loadRom (hload bytes rfl) bytes
  | construct => exact reset_inv

/-- Only a step records a fault. -/
theorem State.after_fault_of_ne_step {s : State} {a : Transaction} (ha : a ≠ .step)
    (hf : s.fault = none) : (s.after a).fault = none := by
  cases a with
  | step => exact absurd rfl ha
  | tick => exact hf
  | setKey k b => exact hf
  | readFramebuffer => exact hf
  | loadRom bytes => exact (s.loadRom_fault bytes).trans hf
  | construct => rfl

/-! ### Runs -/

/-- Before the first step, a transaction that is no step leaves the rest of the run to be admitted alike. -/
theorem admitsBoot_of_cons {a : Transaction} {run : List Transaction} (ha : a ≠ .step)
    (h : admitsBoot (a :: run) = true) : admitsBoot run = true := by
  cases a with
  | step => exact absurd rfl ha
  | construct => simp [admitsBoot] at h
  | tick => exact h
  | setKey k b => exact h
  | readFramebuffer => exact h
  | loadRom bytes => exact h

/-- After the first step no ROM is loaded, and the rest of the run is again one after a step (R8, R126). -/
theorem admitsBoot_step_cons {a : Transaction} {run : List Transaction}
    (h : admitsBoot (.step :: a :: run) = true) :
    (∀ bytes, a ≠ .loadRom bytes) ∧ admitsBoot (.step :: run) = true := by
  simp only [admitsBoot, List.all_cons, Bool.and_eq_true] at h ⊢
  refine ⟨?_, h.2⟩
  rintro bytes rfl
  simp at h

/-- From the first step on, an admitted run keeps the invariant. -/
theorem State.Inv.afterAll_running {run : List Transaction} {s : State} (hs : s.Inv)
    (h : admitsBoot (.step :: run) = true) : (s.afterAll run).Inv := by
  induction run generalizing s with
  | nil => exact hs
  | cons a run ih =>
    obtain ⟨hload, hrun⟩ := admitsBoot_step_cons h
    exact ih (hs.after fun bytes ha => absurd ha (hload bytes)) hrun

/-- An admitted run from an unfaulted core keeps the invariant: until the first step none is faulted, so
loads are safe; from then on there are none. -/
theorem State.Inv.afterAll_boot {run : List Transaction} {s : State} (hs : s.Inv)
    (hf : s.fault = none) (h : admitsBoot run = true) : (s.afterAll run).Inv := by
  induction run generalizing s with
  | nil => exact hs
  | cons a run ih =>
    have hafter : (s.after a).Inv := hs.after fun _ _ => hf
    by_cases ha : a = .step
    · subst ha
      exact hafter.afterAll_running h
    · exact ih hafter (State.after_fault_of_ne_step ha hf) (admitsBoot_of_cons ha h)

theorem exists_of_admissible {run : List Transaction} (h : admissible run = true) :
    ∃ rest, run = .construct :: rest ∧ admitsBoot rest = true := by
  unfold admissible at h
  split at h
  · exact ⟨_, rfl, h⟩
  · exact absurd h Bool.false_ne_true

/-- Settles O19: `Construct()` establishes the invariant on an unfaulted core (R123), and by induction
over the run each admitted transaction keeps it. -/
theorem admissibleRunsMeetTheInvariant : Obligations.AdmissibleRunsMeetTheInvariant := by
  unfold Obligations.AdmissibleRunsMeetTheInvariant
  intro s run h
  obtain ⟨rest, rfl, hboot⟩ := exists_of_admissible h
  exact reset_inv.afterAll_boot rfl hboot

end Sys2Proof.Machine
end

section
/-! SUPPORT. The handlers with a guard, inverted: each raised, or its guard let it through and it left one
known state. The other handlers answer one state outright. -/

namespace Sys2Proof.Machine

/-- `t` is what some fault raised in `s` leaves. -/
def Raised (s t : State) : Prop := ∃ k, t = s.faultedWith k

theorem Raised.fault_ne_none {s t : State} (h : Raised s t) : t.fault ≠ none := by
  obtain ⟨k, rfl⟩ := h
  exact nofun

theorem Raised.reg_eq {s t : State} (h : Raised s t) (r : Reg) : t.reg r = s.reg r := by
  obtain ⟨k, rfl⟩ := h
  rfl

section Guards

variable {s t : State}

theorem Raised.of_raise {k : FaultKind} (h : s.raise k = .next t) : Raised s t := by
  rw [State.raise_eq] at h
  cases h
  exact ⟨k, rfl⟩

theorem State.checkRange_eq_next {a len : Nat} {r : Result} (h : s.checkRange a len r = .next t) :
    Raised s t ∨ r = .next t := by
  rcases s.checkRange_cases a len r with ⟨_, _, heq⟩ | ⟨_, heq⟩
  · exact .inl (.of_raise (heq.symm.trans h))
  · exact .inr (heq.symm.trans h)

/-- Behind a range check, a handler that answers `u` leaves `u` unless it raised. -/
theorem State.checkRange_next_eq_next {a len : Nat} {u : State}
    (h : s.checkRange a len (.next u) = .next t) : Raised s t ∨ t = u :=
  (State.checkRange_eq_next h).imp_right fun hu => (Host.Outcome.next.inj hu).symm

/-- A key test that did not raise read the key `V[x]` names (R93, R94). -/
theorem State.withKey_skipIf_eq_next {x : Reg} {c : Bool → Bool}
    (h : s.withKey x (fun pressed => .next (s.skipIf (c pressed))) = .next t) :
    Raised s t ∨ ∃ k : Reg, (s.reg x).toNat = k.val ∧ t = s.skipIf (c s.key[k]) := by
  rcases s.withKey_cases x (fun pressed => .next (s.skipIf (c pressed))) with
    ⟨_, heq⟩ | ⟨hlow, heq⟩
  · exact .inl (.of_raise (heq.symm.trans h))
  · cases heq.symm.trans h
    exact .inr ⟨⟨_, hlow⟩, rfl, rfl⟩

theorem execCall_eq_next {nnn : Imm12} (h : execCall nnn s = .next t) :
    Raised s t ∨ ∃ hroom : s.sp.val < 16,
      t = { s with stack := s.stack.set s.sp.val s.pc hroom, sp := ⟨s.sp.val + 1, by omega⟩,
                   pc := addr12 nnn } := by
  unfold execCall at h
  rcases s.push_cases s.pc (fun u => .next (u.setPc (addr12 nnn))) with ⟨_, heq⟩ | ⟨hroom, heq⟩
  · exact .inl (.of_raise (heq.symm.trans h))
  · cases heq.symm.trans h
    exact .inr ⟨hroom, rfl⟩

theorem execRet_eq_next (h : execRet s = .next t) :
    Raised s t ∨ ∃ j : Fin 16, s.sp.val = j.val + 1 ∧
      t = { s with sp := j.castSucc, pc := s.stack[j] } := by
  unfold execRet at h
  rcases s.pop_cases (fun a u => .next (u.setPc a)) with ⟨_, heq⟩ | ⟨j, hj, hsp, heq⟩
  · exact .inl (.of_raise (heq.symm.trans h))
  · cases heq.symm.trans h
    exact .inr ⟨⟨j, hj⟩, hsp, rfl⟩

theorem execDrw_eq_next {x y : Reg} {n : Nibble} (h : execDrw x y n s = .next t) :
    Raised s t ∨ t = (s.setFb (s.drawn Config.drawRowPolicy x y n).fb).setReg vf
      (collisionFlag (s.drawn Config.drawRowPolicy x y n)) := by
  unfold execDrw State.drawUnder at h
  rcases State.checkRange_eq_next h with hraised | h
  · exact .inl hraised
  · split at h
    · exact .inl (.of_raise h)
    · exact .inr (Host.Outcome.next.inj h).symm

end Guards

end Sys2Proof.Machine
end

section
/-! SUPPORT. The frames of the instructions: the registers, and the parts of the state that have writers of
their own (10_state.md R15, R18–R26). -/

namespace Sys2Proof.Machine

/-! ### Registers -/

theorem State.reg_setRegThenFlag_other (s : State) {x r : Reg} (b flag : Byte)
    (h : (r == x || r == vf) = false) : (s.setRegThenFlag x b flag).reg r = s.reg r := by
  obtain ⟨hx, hflag⟩ := Bool.or_eq_false_iff.mp h
  rw [State.reg_setRegThenFlag, if_neg (ne_of_beq_false hflag), if_neg (ne_of_beq_false hx)]

/-- Settles O53: an instruction that raises keeps every register; any other only writes its destination
and, last, its flag. -/
theorem registersOutsideTheDestinationKeep : Obligations.RegistersOutsideTheDestinationKeep := by
  unfold Obligations.RegistersOutsideTheDestinationKeep
  intro i s t h r hr
  cases i with
  | ldImm _ _ | addImm _ _ | ldReg _ _ | orReg _ _ | andReg _ _ | xorReg _ _ | rnd _ _
  | ldVxDt _ =>
    cases h
    exact State.reg_setReg_other _ _ (ne_of_beq_false hr)
  | addReg _ _ | subReg _ _ | shr _ | subn _ _ | shl _ =>
    cases h
    exact s.reg_setRegThenFlag_other _ _ hr
  | drw x y n =>
    rcases execDrw_eq_next h with hraised | rfl
    · exact hraised.reg_eq r
    · exact State.reg_setReg_other _ _ (ne_of_beq_false hr)
  | loadRegs x =>
    rcases State.checkRange_next_eq_next h with hraised | rfl
    · exact hraised.reg_eq r
    · rw [State.reg_loadRegsFrom, if_neg (of_decide_eq_false hr)]
  | ldB x | storeRegs x =>
    rcases State.checkRange_next_eq_next h with hraised | rfl
    · exact hraised.reg_eq r
    · rfl
  | sys nnn => exact (Raised.of_raise h).reg_eq r
  | call nnn =>
    rcases execCall_eq_next h with hraised | ⟨_, rfl⟩
    · exact hraised.reg_eq r
    · rfl
  | ret =>
    rcases execRet_eq_next h with hraised | ⟨_, _, rfl⟩
    · exact hraised.reg_eq r
    · rfl
  | skp x =>
    rcases State.withKey_skipIf_eq_next (c := id) h with hraised | ⟨_, _, rfl⟩
    · exact hraised.reg_eq r
    · simp [State.reg]
  | sknp x =>
    rcases State.withKey_skipIf_eq_next (c := not) h with hraised | ⟨_, _, rfl⟩
    · exact hraised.reg_eq r
    · simp [State.reg]
  | seImm _ _ | sneImm _ _ | seReg _ _ | sneReg _ _ =>
    cases h
    simp [State.reg]
  | cls | jp _ | jpV0 _ | ldI _ | addI _ | ldF _ | ldVxK _ | ldDtVx _ | ldStVx _ =>
    cases h
    rfl

/-! ### The parts with writers of their own -/

/-- What an instruction's handler, started in `s`, leaves of the index register, the stack, SP, the timers,
the wait, the keypad, the latched word and the count of draws. -/
inductive SpecialEffect (s : State) : Instr → State → Prop where
  /-- none of them changes -/
  | keeps {i : Instr} {t : State}
      (h : t = { s with v := t.v, pc := t.pc, fb := t.fb, mem := t.mem, fault := t.fault }) :
      SpecialEffect s i t
  /-- `LD I, nnn` (R99) -/
  | ldI (nnn : Imm12) : SpecialEffect s (.ldI nnn) (s.setIndex (addr12 nnn))
  /-- `ADD I, Vx` (R100) -/
  | addI (x : Reg) : SpecialEffect s (.addI x) (s.setIndex (s.index + s.regWord x))
  /-- `LD F, Vx` (R101) -/
  | ldF (x : Reg) : SpecialEffect s (.ldF x) (s.setIndex (s.glyphAddr x))
  /-- `CALL nnn` pushes (R74) -/
  | call (nnn : Imm12) (stack : Vector Word 16) (sp : Fin 17) (pc : Word) :
      SpecialEffect s (.call nnn) { s with stack := stack, sp := sp, pc := pc }
  /-- `RET` pops (R72) -/
  | ret (sp : Fin 17) (pc : Word) : SpecialEffect s .ret { s with sp := sp, pc := pc }
  /-- `LD DT, Vx` (R97) -/
  | ldDtVx (x : Reg) : SpecialEffect s (.ldDtVx x) (s.setDt (s.reg x))
  /-- `LD ST, Vx` (R98) -/
  | ldStVx (x : Reg) : SpecialEffect s (.ldStVx x) (s.setSt (s.reg x))
  /-- `LD Vx, K` begins the wait (R96) -/
  | ldVxK (x : Reg) : SpecialEffect s (.ldVxK x) (s.beginWait x)
  /-- `RND Vx, kk` draws (R92) -/
  | rnd (x : Reg) (kk b : Byte) : SpecialEffect s (.rnd x kk) (s.countDraw.setReg x b)

theorem Raised.specialEffect {s t : State} (h : Raised s t) (i : Instr) : SpecialEffect s i t := by
  obtain ⟨k, rfl⟩ := h
  exact .keeps rfl

theorem specialEffect_skipIf (i : Instr) (s : State) (c : Bool) :
    SpecialEffect s i (s.skipIf c) := by
  rw [State.skipIf_eq]
  exact .keeps rfl

/-- Every handler's answer is one of these effects. -/
theorem exec_specialEffect {i : Instr} {s t : State} (h : exec i s = .next t) :
    SpecialEffect s i t := by
  cases i with
  | ldI nnn => cases h; exact .ldI nnn
  | addI x => cases h; exact .addI x
  | ldF x => cases h; exact .ldF x
  | ldDtVx x => cases h; exact .ldDtVx x
  | ldStVx x => cases h; exact .ldStVx x
  | ldVxK x => cases h; exact .ldVxK x
  | rnd x kk => cases h; exact .rnd x kk _
  | call nnn =>
    rcases execCall_eq_next h with hraised | ⟨_, rfl⟩
    · exact hraised.specialEffect _
    · exact .call nnn _ _ _
  | ret =>
    rcases execRet_eq_next h with hraised | ⟨_, _, rfl⟩
    · exact hraised.specialEffect _
    · exact .ret _ _
  | sys nnn => exact (Raised.of_raise h).specialEffect _
  | drw x y n =>
    rcases execDrw_eq_next h with hraised | rfl
    · exact hraised.specialEffect _
    · exact .keeps rfl
  | ldB x | storeRegs x | loadRegs x =>
    rcases State.checkRange_next_eq_next h with hraised | rfl
    · exact hraised.specialEffect _
    · exact .keeps rfl
  | skp x =>
    rcases State.withKey_skipIf_eq_next (c := id) h with hraised | ⟨_, _, rfl⟩
    · exact hraised.specialEffect _
    · exact specialEffect_skipIf _ s _
  | sknp x =>
    rcases State.withKey_skipIf_eq_next (c := not) h with hraised | ⟨_, _, rfl⟩
    · exact hraised.specialEffect _
    · exact specialEffect_skipIf _ s _
  | seImm _ _ | sneImm _ _ | seReg _ _ | sneReg _ _ =>
    cases h
    exact specialEffect_skipIf _ s _
  | cls | jp _ | jpV0 _ | ldImm _ _ | addImm _ _ | ldReg _ _ | orReg _ _ | andReg _ _ | xorReg _ _
  | addReg _ _ | subReg _ _ | shr _ | subn _ _ | shl _ | ldVxDt _ =>
    cases h
    exact .keeps rfl

/-- Settles O55: read off the effect, each part changes under its own writers alone. -/
theorem specialStateHasItsOwnWriters : Obligations.SpecialStateHasItsOwnWriters := by
  unfold Obligations.SpecialStateHasItsOwnWriters
  intro i s t h
  cases exec_specialEffect h with
  | keeps h => rw [h]; simp
  | ldI nnn | addI x | ldF x | call nnn _ _ _ | ret _ _ | ldDtVx x | ldStVx x | ldVxK x
  | rnd x kk b => simp

theorem SpecialEffect.key_eq {i : Instr} {s t : State} (h : SpecialEffect s i t) :
    t.key = s.key := by
  cases h with
  | keeps h => rw [h]
  | ldI nnn | addI x | ldF x | call nnn _ _ _ | ret _ _ | ldDtVx x | ldStVx x | ldVxK x
  | rnd x kk b => rfl

/-- DT changes only to the register `LD DT, Vx` copies (R97). -/
theorem SpecialEffect.ldDtVx_of_dt_ne {i : Instr} {s t : State} (h : SpecialEffect s i t)
    (hne : t.dt ≠ s.dt) : ∃ x, i = .ldDtVx x ∧ t.dt = s.reg x := by
  cases h with
  | ldDtVx x => exact ⟨x, rfl, rfl⟩
  | keeps h => exact absurd (congrArg State.dt h) hne
  | ldI nnn | addI x | ldF x | call nnn _ _ _ | ret _ _ | ldStVx x | ldVxK x | rnd x kk b =>
    exact absurd rfl hne

/-- ST changes only to the register `LD ST, Vx` copies (R98). -/
theorem SpecialEffect.ldStVx_of_st_ne {i : Instr} {s t : State} (h : SpecialEffect s i t)
    (hne : t.st ≠ s.st) : ∃ x, i = .ldStVx x ∧ t.st = s.reg x := by
  cases h with
  | ldStVx x => exact ⟨x, rfl, rfl⟩
  | keeps h => exact absurd (congrArg State.st h) hne
  | ldI nnn | addI x | ldF x | call nnn _ _ _ | ret _ _ | ldDtVx x | ldVxK x | rnd x kk b =>
    exact absurd rfl hne

end Sys2Proof.Machine
end

section
/-! SUPPORT. No handler reads the sound timer: setting ST before it is setting ST after it (R22). -/

namespace Sys2Proof.Machine

/-- `f` of the next state, if a handler answers one. -/
def mapNext (f : State → State) (r : Result) : Result :=
  match r with
  | .next t => .next (f t)
  | .fault q => .fault q
  | .refused q => .refused q

section SetStBefore

variable (s : State) (b : Byte)

theorem State.checkRange_setSt (a len : Nat) (r : Result) :
    (s.setSt b).checkRange a len (mapNext (·.setSt b) r) =
      mapNext (·.setSt b) (s.checkRange a len r) := by
  unfold State.checkRange
  split
  · rfl
  · rfl

theorem State.skipIf_setSt (c : Bool) : (s.setSt b).skipIf c = (s.skipIf c).setSt b := by
  cases c
  · rfl
  · rfl

theorem State.withKey_setSt (x : Reg) (c : Bool → Bool) :
    (s.setSt b).withKey x (fun pressed => .next ((s.setSt b).skipIf (c pressed))) =
      mapNext (·.setSt b) (s.withKey x (fun pressed => .next (s.skipIf (c pressed)))) := by
  have hkey : (s.setSt b).keyIndex x = s.keyIndex x := rfl
  unfold State.withKey
  rw [hkey]
  cases s.keyIndex x with
  | none => rfl
  | some k => exact congrArg Host.Outcome.next (s.skipIf_setSt b _)

theorem execCall_setSt (nnn : Imm12) :
    execCall nnn (s.setSt b) = mapNext (·.setSt b) (execCall nnn s) := by
  unfold execCall State.push
  by_cases hroom : s.sp.val < 16
  · rw [dif_pos hroom, dif_pos (show (s.setSt b).sp.val < 16 from hroom)]
    rfl
  · rw [dif_neg hroom, dif_neg (show ¬ (s.setSt b).sp.val < 16 from hroom)]
    rfl

theorem execRet_setSt : execRet (s.setSt b) = mapNext (·.setSt b) (execRet s) := by
  unfold execRet State.pop
  rw [State.setSt_sp]
  split
  · rfl
  · rfl

theorem execDrw_setSt (x y : Reg) (n : Nibble) :
    execDrw x y n (s.setSt b) = mapNext (·.setSt b) (execDrw x y n s) := by
  unfold execDrw State.drawUnder
  rw [← State.checkRange_setSt]
  congr 1
  rw [apply_ite (mapNext (·.setSt b))]
  rfl

end SetStBefore

/-- Only `LD ST, Vx` overwrites the value set before it. -/
theorem exec_setSt {i : Instr} (hi : ∀ x, i ≠ .ldStVx x) (s : State) (b : Byte) :
    exec i (s.setSt b) = mapNext (·.setSt b) (exec i s) := by
  cases i with
  | ldStVx x => exact absurd rfl (hi x)
  | call nnn => exact execCall_setSt s b nnn
  | ret => exact execRet_setSt s b
  | drw x y n => exact execDrw_setSt s b x y n
  | ldB x => exact s.checkRange_setSt b s.base 3 (.next (s.storeBytes s.base (bcdDigits (s.reg x))))
  | storeRegs x => exact s.checkRange_setSt b s.base (x + 1) (.next (s.storeBytes s.base (s.regsTo x)))
  | loadRegs x => exact s.checkRange_setSt b s.base (x + 1) (.next (s.loadRegsFrom x s.base))
  | skp x => exact s.withKey_setSt b x id
  | sknp x => exact s.withKey_setSt b x not
  | seImm _ _ | sneImm _ _ | seReg _ _ | sneReg _ _ =>
    exact congrArg Host.Outcome.next (s.skipIf_setSt b _)
  | sys _ | cls | jp _ | jpV0 _ | ldImm _ _ | addImm _ _ | ldReg _ _ | orReg _ _ | andReg _ _
  | xorReg _ _ | addReg _ _ | subReg _ _ | shr _ | subn _ _ | shl _ | rnd _ _ | ldI _ | addI _
  | ldF _ | ldVxDt _ | ldVxK _ | ldDtVx _ => rfl

/-- Settles O57: `LD ST, Vx` leaves the same state whatever ST was; any other instruction carries the other
value of ST along. -/
theorem soundTimerIsNeverRead : Obligations.SoundTimerIsNeverRead := by
  unfold Obligations.SoundTimerIsNeverRead
  intro i s t b h
  by_cases hi : ∃ x, i = .ldStVx x
  · obtain ⟨x, rfl⟩ := hi
    exact ⟨t, h, rfl⟩
  · refine ⟨t.setSt b, ?_, rfl⟩
    have hcomm := exec_setSt (fun x hx => hi ⟨x, hx⟩) s b
    rw [h] at hcomm
    exact hcomm

end Sys2Proof.Machine
end

section
/-! SUPPORT. Steps: the invariant, where PC is left, and that no step ticks a timer or touches a key. -/

namespace Sys2Proof.Machine

/-- Settles O16: a step checks a wait, records a fault that fits, or runs a handler that carries on
(`State.Inv.step`). -/
theorem stepKeepsTheInvariant : Obligations.StepKeepsTheInvariant := by
  unfold Obligations.StepKeepsTheInvariant
  exact fun s t hs h => hs.step h

/-! ### Where PC is left -/

section Pc

variable {s t : State} {w : Word} {i : Instr}

/-- A step at a fetchable word that decodes leaves what its handler left, settled (R59, R64). -/
theorem State.Fetches.step_eq (hF : s.Fetches w) (hd : decode w = .ok i) :
    step s = s.settleResult (exec i (s.preAdvanced w)) := by
  rw [step_of_fetches hF, State.runWord, hd]
  rfl

/-- A step without a fault leaves what its handler left. -/
theorem State.Fetches.exec_of_unfaulted_step (hF : s.Fetches w) (hd : decode w = .ok i)
    (h : step s = .next t) (ht : t.fault = none) : exec i (s.preAdvanced w) = .next t := by
  rw [hF.step_eq hd] at h
  rcases exec_answers i (s.preAdvanced w) with ⟨k, _, heq⟩ | ⟨u, hc, heq⟩
  · rw [heq, State.raise_eq] at h
    cases h
    exact absurd ht nofun
  · rw [heq] at h ⊢
    cases h
    rw [State.settle_of_none s (hc.fault.trans hF.fault_eq_none)]

/-- A skip from p leaves PC at p + 4 or p + 2, without wrap (R57, R60). -/
theorem State.Fetches.toNat_pc_skipIf (hF : s.Fetches w) (c : Bool) :
    ((s.preAdvanced w).skipIf c).pc.toNat = s.pc.toNat + if c then 4 else 2 := by
  have hnext := hF.toNat_pc_add_two
  obtain ⟨_, _, _, htop, _⟩ := hF
  rw [State.skipIf_pc]
  cases c with
  | false => exact hnext
  | true =>
    simp only [State.preAdvanced, if_true]
    bv_omega

end Pc

theorem toNat_addr12 (nnn : Imm12) : (addr12 nnn).toNat = nnn.toNat :=
  BitVec.toNat_setWidth_of_le (by decide)

theorem State.toNat_offsetTarget (s : State) (nnn : Imm12) :
    (s.offsetTarget nnn).toNat = (s.reg 0).toNat + nnn.toNat := by
  have hv := (s.reg 0).isLt
  have ha := nnn.isLt
  rw [State.offsetTarget, BitVec.toNat_add, toNat_addr12, State.regWord,
    BitVec.toNat_setWidth_of_le (by decide)]
  omega

/-- Settles O30: the handler did not raise, so it left the PC of its one other answer. -/
theorem pcAfterEveryStep : Obligations.PcAfterEveryStep := by
  unfold Obligations.PcAfterEveryStep
  intro s t w i hF hd hstep ht
  have hu := hF.exec_of_unfaulted_step hd hstep ht
  have hnext := hF.toNat_pc_add_two
  have hraised : ¬ Raised (s.preAdvanced w) t := fun h => h.fault_ne_none ht
  cases i with
  | jp nnn =>
    cases hu
    exact toNat_addr12 nnn
  | call nnn =>
    obtain ⟨_, rfl⟩ := (execCall_eq_next hu).resolve_left hraised
    exact toNat_addr12 nnn
  | jpV0 nnn =>
    cases hu
    exact (s.preAdvanced w).toNat_offsetTarget nnn
  | ret =>
    obtain ⟨j, hsp, rfl⟩ := (execRet_eq_next hu).resolve_left hraised
    exact ⟨j, hsp, rfl⟩
  | seImm x kk =>
    cases hu
    exact (hF.toNat_pc_skipIf (s.reg x == kk)).trans (by simp)
  | sneImm x kk =>
    cases hu
    exact (hF.toNat_pc_skipIf (s.reg x != kk)).trans (by simp)
  | seReg x y =>
    cases hu
    exact (hF.toNat_pc_skipIf (s.reg x == s.reg y)).trans (by simp)
  | sneReg x y =>
    cases hu
    exact (hF.toNat_pc_skipIf (s.reg x != s.reg y)).trans (by simp)
  | skp x =>
    obtain ⟨k, hk, rfl⟩ := (State.withKey_skipIf_eq_next (c := id) hu).resolve_left hraised
    exact ⟨k, hk, hF.toNat_pc_skipIf s.key[k]⟩
  | sknp x =>
    obtain ⟨k, hk, rfl⟩ := (State.withKey_skipIf_eq_next (c := not) hu).resolve_left hraised
    exact ⟨k, hk, (hF.toNat_pc_skipIf (!s.key[k])).trans (by cases s.key[k] <;> rfl)⟩
  | drw x y n =>
    obtain rfl := (execDrw_eq_next hu).resolve_left hraised
    exact hnext
  | ldB x | storeRegs x | loadRegs x =>
    obtain rfl := (State.checkRange_next_eq_next hu).resolve_left hraised
    exact hnext
  | sys nnn => exact absurd (Raised.of_raise hu) hraised
  | cls | ldImm _ _ | addImm _ _ | ldReg _ _ | orReg _ _ | andReg _ _ | xorReg _ _ | addReg _ _
  | subReg _ _ | shr _ | subn _ _ | shl _ | rnd _ _ | ldI _ | addI _ | ldF _ | ldVxDt _ | ldVxK _
  | ldDtVx _ | ldStVx _ =>
    cases hu
    exact hnext

/-! ### Timers and keys -/

/-- Checking a wait changes no timer and no key (R65). -/
theorem State.resolveKeyWait_frame (s : State) :
    s.resolveKeyWait.key = s.key ∧ s.resolveKeyWait.dt = s.dt ∧ s.resolveKeyWait.st = s.st := by
  rcases s.resolveKeyWait_cases with ⟨_, heq⟩ | ⟨_, _, heq⟩
  · rw [heq]
    exact ⟨rfl, rfl, rfl⟩
  · rw [heq]
    exact ⟨rfl, rfl, rfl⟩

/-- Settles O58: of a step's paths only the one that runs a handler can change a timer, and the handler is
then the one that copies a register into it. -/
theorem stepNeverTicksOrTouchesKeys : Obligations.StepNeverTicksOrTouchesKeys := by
  unfold Obligations.StepNeverTicksOrTouchesKeys
  intro s t h
  cases hf : s.fault with
  | some record => simp [step_of_fault hf] at h
  | none =>
    rcases step_cases hf h with ⟨_, rfl⟩ | ⟨_, _, rfl⟩ | ⟨_, _, _, rfl⟩ | ⟨_, _, _, rfl⟩ |
      ⟨w, i, u, hF, hd, hu, rfl⟩
    · obtain ⟨hkey, hdt, hst⟩ := s.resolveKeyWait_frame
      exact ⟨hkey, absurd hdt, absurd hst⟩
    · exact ⟨rfl, absurd rfl, absurd rfl⟩
    · exact ⟨rfl, absurd rfl, absurd rfl⟩
    · exact ⟨rfl, absurd rfl, absurd rfl⟩
    · cases hr : u.fault with
      | some record =>
        rw [State.settle_of_some s hr]
        exact ⟨rfl, absurd rfl, absurd rfl⟩
      | none =>
        rw [State.settle_of_none s hr]
        have heffect := exec_specialEffect hu
        refine ⟨heffect.key_eq, fun hne => ?_, fun hne => ?_⟩
        · obtain ⟨x, rfl, hx⟩ := heffect.ldDtVx_of_dt_ne hne
          exact ⟨w, x, hF, hd, hx⟩
        · obtain ⟨x, rfl, hx⟩ := heffect.ldStVx_of_st_ne hne
          exact ⟨w, x, hF, hd, hx⟩

end Sys2Proof.Machine
end

section
/-! SUPPORT. The frame of memory: what an instruction's handler leaves of it (20_memory.md R31, R46). -/

namespace Sys2Proof.Machine

theorem Raised.mem_eq {s t : State} (h : Raised s t) : t.mem = s.mem := by
  obtain ⟨k, rfl⟩ := h
  rfl

/-- A handler keeps memory, or stores its instruction's bytes from `I` on and nothing else (R31). -/
theorem exec_mem_cases {i : Instr} {s t : State} (h : exec i s = .next t) :
    t.mem = s.mem ∨
      ∃ bytes, bytes.length = i.storeLength ∧ t.mem = s.mem.writeBytes s.index.toNat bytes := by
  cases i with
  | ldB x =>
    exact (State.checkRange_next_eq_next h).imp Raised.mem_eq
      fun ht => ⟨bcdDigits (s.reg x), length_bcdDigits _, congrArg State.mem ht⟩
  | storeRegs x =>
    exact (State.checkRange_next_eq_next h).imp Raised.mem_eq
      fun ht => ⟨s.regsTo x, s.length_regsTo x, congrArg State.mem ht⟩
  | loadRegs x =>
    exact .inl ((State.checkRange_next_eq_next h).elim Raised.mem_eq (congrArg State.mem))
  | drw x y n => exact .inl ((execDrw_eq_next h).elim Raised.mem_eq (congrArg State.mem))
  | sys nnn => exact .inl (Raised.of_raise h).mem_eq
  | call nnn =>
    rcases execCall_eq_next h with hraised | ⟨_, rfl⟩
    · exact .inl hraised.mem_eq
    · exact .inl rfl
  | ret =>
    rcases execRet_eq_next h with hraised | ⟨_, _, rfl⟩
    · exact .inl hraised.mem_eq
    · exact .inl rfl
  | skp x =>
    rcases State.withKey_skipIf_eq_next (c := id) h with hraised | ⟨_, _, rfl⟩
    · exact .inl hraised.mem_eq
    · exact .inl (s.skipIf_mem _)
  | sknp x =>
    rcases State.withKey_skipIf_eq_next (c := not) h with hraised | ⟨_, _, rfl⟩
    · exact .inl hraised.mem_eq
    · exact .inl (s.skipIf_mem _)
  | seImm _ _ | sneImm _ _ | seReg _ _ | sneReg _ _ =>
    cases h
    exact .inl (s.skipIf_mem _)
  | cls | jp _ | jpV0 _ | ldImm _ _ | addImm _ _ | ldReg _ _ | orReg _ _ | andReg _ _ | xorReg _ _
  | addReg _ _ | subReg _ _ | shr _ | subn _ _ | shl _ | rnd _ _ | ldI _ | addI _ | ldF _ | ldVxDt _
  | ldVxK _ | ldDtVx _ | ldStVx _ =>
    cases h
    exact .inl rfl

/-- Settles O54: memory is kept, or written at `I` over the instruction's store length alone. -/
theorem bytesOutsideTheStoreKeep : Obligations.BytesOutsideTheStoreKeep := by
  unfold Obligations.BytesOutsideTheStoreKeep
  intro i s t h a ha
  unfold State.byteAt
  rcases exec_mem_cases h with hmem | ⟨bytes, hlen, hmem⟩
  · rw [hmem]
  · rw [hmem, Memory.read_writeBytes_outside _ _ _ (by rwa [hlen])]

end Sys2Proof.Machine
end

section
/-! SUPPORT. The encoding: a word is its fields, the decoder reads back what the encoder packs, and what a
decoded word fixes, keeps and selects (30_encoding.md R47–R56). -/

namespace Sys2Proof

/-! ### The fields of a word (R47) -/

theorem opField_eq_div (w : Word) : opField w = w.toNat / 0x1000 := by
  have := w.isLt
  rw [opField, BitVec.extractLsb'_toNat, Nat.shiftRight_eq_div_pow]
  omega

theorem opField_lt (w : Word) : opField w < 16 := BitVec.isLt _

theorem toNat_nField (w : Word) : (nField w).toNat = w.toNat % 16 := by
  simp [nField]

theorem toNat_kkField (w : Word) : (kkField w).toNat = w.toNat % 256 := by
  simp [kkField]

theorem toNat_nnnField (w : Word) : (nnnField w).toNat = w.toNat % 4096 := by
  simp [nnnField]

section Fields

variable {w : Word} {op : Nibble}

theorem packNNN_fields (hop : opField w = op.toNat) : packNNN op (nnnField w) = w := by
  obtain rfl : w.extractLsb' 12 4 = op := BitVec.eq_of_toNat_eq hop
  rw [packNNN, nnnField, BitVec.extractLsb'_append_extractLsb'_eq_extractLsb' (by rfl),
    BitVec.extractLsb'_eq_self]

theorem packXKK_fields {kk : Byte} (hop : opField w = op.toNat)
    (hkk : (kkField w).toNat = kk.toNat) : packXKK op (xField w) kk = w := by
  obtain rfl : w.extractLsb' 12 4 = op := BitVec.eq_of_toNat_eq hop
  obtain rfl : w.extractLsb' 0 8 = kk := BitVec.eq_of_toNat_eq hkk
  have hx : regNibble (xField w) = w.extractLsb' 8 4 := rfl
  rw [packXKK, hx, BitVec.extractLsb'_append_extractLsb'_eq_extractLsb' (by rfl),
    BitVec.extractLsb'_append_extractLsb'_eq_extractLsb' (by rfl), BitVec.extractLsb'_eq_self]

theorem packXYN_fields {n : Nibble} (hop : opField w = op.toNat)
    (hn : (nField w).toNat = n.toNat) : packXYN op (xField w) (yField w) n = w := by
  obtain rfl : w.extractLsb' 12 4 = op := BitVec.eq_of_toNat_eq hop
  obtain rfl : w.extractLsb' 0 4 = n := BitVec.eq_of_toNat_eq hn
  have hx : regNibble (xField w) = w.extractLsb' 8 4 := rfl
  have hy : regNibble (yField w) = w.extractLsb' 4 4 := rfl
  rw [packXYN, hx, hy, BitVec.extractLsb'_append_extractLsb'_eq_extractLsb' (by rfl),
    BitVec.extractLsb'_append_extractLsb'_eq_extractLsb' (by rfl),
    BitVec.extractLsb'_append_extractLsb'_eq_extractLsb' (by rfl), BitVec.extractLsb'_eq_self]

end Fields

theorem packXYN_and_op_x_y (op : Nibble) (x y : Reg) (n : Nibble) :
    packXYN op x y n &&& 0xFFF0 = packXYN op x y 0 := by
  rw [packXYN, show (0xFFF0 : Word) =
      BitVec.allOnes 4 ++ BitVec.allOnes 4 ++ BitVec.allOnes 4 ++ 0#4 from rfl,
    BitVec.and_append, BitVec.and_append, BitVec.and_append, BitVec.and_allOnes,
    BitVec.and_allOnes, BitVec.and_allOnes, BitVec.and_zero]
  rfl

theorem packXYN_and_op_x_n (op : Nibble) (x y : Reg) (n : Nibble) :
    packXYN op x y n &&& 0xFF0F = packXYN op x 0 n := by
  rw [packXYN, show (0xFF0F : Word) =
      BitVec.allOnes 4 ++ BitVec.allOnes 4 ++ 0#4 ++ BitVec.allOnes 4 from rfl,
    BitVec.and_append, BitVec.and_append, BitVec.and_append, BitVec.and_allOnes,
    BitVec.and_allOnes, BitVec.and_allOnes, BitVec.and_zero]
  rfl

/-! ### Decoding an encoded instruction -/

/-- A family-0 word is a `SYS` word unless its low byte is that of `CLS` or `RET` (R51). -/
theorem decode_packNNN_zero_eq_sys_iff (nnn : Imm12) :
    decode (packNNN 0x0 nnn) = .ok (.sys nnn) ↔ sysLowByteFree nnn = true := by
  have hdecode : decode (packNNN 0x0 nnn) = .ok (decodeFamily0 (packNNN 0x0 nnn)) := by
    simp [decode]
  rw [hdecode, decodeFamily0, toNat_kkField_packNNN, nnnField_packNNN, sysLowByteFree]
  split <;> simp_all

/-- Settles O1: the decoder reads each field back from where the encoder packed it, and a selector the
encoder wrote selects its own row; a `SYS` word does so by well-formedness (R51). -/
theorem decodeOfEncodeIsTheInstruction : Obligations.DecodeOfEncodeIsTheInstruction := by
  unfold Obligations.DecodeOfEncodeIsTheInstruction
  intro i hi
  cases i with
  | sys nnn => exact (decode_packNNN_zero_eq_sys_iff nnn).mpr hi
  | cls | ret => rfl
  | jp _ | call _ | seImm _ _ | sneImm _ _ | seReg _ _ | ldImm _ _ | addImm _ _ | sneReg _ _ | ldI _
  | jpV0 _ | rnd _ _ | drw _ _ _ => simp [encode, decode]
  | ldReg _ _ | orReg _ _ | andReg _ _ | xorReg _ _ | addReg _ _ | subReg _ _ | shr _ | subn _ _
  | shl _ => simp [encode, decode, decodeFamily8]
  | skp _ | sknp _ => simp [encode, decode, decodeFamilyE]
  | ldVxDt _ | ldVxK _ | ldDtVx _ | ldStVx _ | addI _ | ldF _ | ldB _ | storeRegs _
  | loadRegs _ => simp [encode, decode, decodeFamilyF]

/-- Settles O2: fifteen closed words, which the decoder evaluates. -/
theorem wordsOfTheSpecDecode : Obligations.WordsOfTheSpecDecode := by
  unfold Obligations.WordsOfTheSpecDecode
  decide

/-! ### Encoding a decoded word -/

/-- What decoding `w` answered, `r`, encodes to `w` with the ignored bits 0 (R55). -/
def EncodesBack (w : Word) (r : Except Reject Instr) : Prop :=
  ∀ i, r = .ok i → encode i = w &&& i.usedBits

section EncodesBack

variable {w : Word} {i : Instr}

theorem EncodesBack.ok (h : encode i = w &&& i.usedBits) : EncodesBack w (.ok i) := by
  intro j hj
  cases hj
  exact h

theorem EncodesBack.error (r : Reject) : EncodesBack w (.error r) := nofun

/-- An instruction that ignores no bit encodes back if it encodes to the word itself. -/
theorem EncodesBack.of_encode_eq (h : encode i = w) (hused : i.usedBits = BitVec.allOnes 16) :
    EncodesBack w (.ok i) :=
  .ok (by rw [hused, BitVec.and_allOnes, h])

theorem and_op_kk_of_fields {op : Nibble} {kk : Byte} (hop : opField w = op.toNat)
    (hkk : (kkField w).toNat = kk.toNat) : w &&& 0xF0FF = op ++ 0#4 ++ kk := by
  rw [← packXKK_and_op_kk op (xField w) kk, packXKK_fields hop hkk]

theorem encodesBack_decodeFamily0 (hop : opField w = 0x0) :
    EncodesBack w (.ok (decodeFamily0 w)) := by
  unfold decodeFamily0
  split
  next hkk => exact .ok (and_op_kk_of_fields (op := 0x0) (kk := 0xE0) hop hkk).symm
  next hkk => exact .ok (and_op_kk_of_fields (op := 0x0) (kk := 0xEE) hop hkk).symm
  next => exact .of_encode_eq (packNNN_fields hop) rfl

/-- Of family 8 the two shifts ignore y (R55). -/
theorem encodesBack_decodeFamily8 (hop : opField w = 0x8) : EncodesBack w (decodeFamily8 w) := by
  have hshift {n : Nibble} (hn : (nField w).toNat = n.toNat) :
      packXYN 0x8 (xField w) 0 n = w &&& 0xFF0F := by
    rw [← packXYN_and_op_x_n 0x8 (xField w) (yField w) n, packXYN_fields hop hn]
  unfold decodeFamily8
  split
  case h_7 hn | h_9 hn => exact .ok (hshift hn)
  case h_10 => exact .error _
  all_goals exact .of_encode_eq (packXYN_fields hop ‹_›) rfl

theorem encodesBack_decodeFamilyE (hop : opField w = 0xE) : EncodesBack w (decodeFamilyE w) := by
  unfold decodeFamilyE
  split
  case h_3 => exact .error _
  all_goals exact .of_encode_eq (packXKK_fields hop ‹_›) rfl

theorem encodesBack_decodeFamilyF (hop : opField w = 0xF) : EncodesBack w (decodeFamilyF w) := by
  unfold decodeFamilyF
  split
  case h_10 => exact .error _
  all_goals exact .of_encode_eq (packXKK_fields hop ‹_›) rfl

end EncodesBack

/-- Outside the four families only `5xyN` and `9xyN` ignore a field, n (R55). -/
theorem encodesBack_decode (w : Word) : EncodesBack w (decode w) := by
  have hskip {op : Nibble} (hop : opField w = op.toNat) :
      packXYN op (xField w) (yField w) 0 = w &&& 0xFFF0 := by
    rw [← packXYN_and_op_x_y op (xField w) (yField w) (nField w), packXYN_fields hop rfl]
  have hlt := opField_lt w
  unfold decode
  split
  case h_1 hop => exact encodesBack_decodeFamily0 hop
  case h_9 hop => exact encodesBack_decodeFamily8 hop
  case h_15 hop => exact encodesBack_decodeFamilyE hop
  case h_16 => exact encodesBack_decodeFamilyF (by grind)
  case h_6 hop | h_10 hop => exact .ok (hskip hop)
  case h_14 hop => exact .of_encode_eq (packXYN_fields hop rfl) rfl
  case h_2 hop | h_3 hop | h_11 hop | h_12 hop => exact .of_encode_eq (packNNN_fields hop) rfl
  all_goals exact .of_encode_eq (packXKK_fields ‹_› rfl) rfl

/-- Settles O3: what a word decodes to encodes back (`encodesBack_decode`). -/
theorem encodeOfDecodeKeepsUsedBits : Obligations.EncodeOfDecodeKeepsUsedBits := by
  unfold Obligations.EncodeOfDecodeKeepsUsedBits
  exact encodesBack_decode

/-! ### The row of a decoded word -/

/-- A word decodes to a `SYS` only if it is the word of that `SYS`, which uses every bit (R51). -/
theorem decode_eq_sys_iff (w : Word) (nnn : Imm12) :
    decode w = .ok (.sys nnn) ↔ w = packNNN 0x0 nnn ∧ sysLowByteFree nnn = true := by
  rw [← decode_packNNN_zero_eq_sys_iff]
  constructor
  · intro h
    have hw : packNNN 0x0 nnn = w := (encodesBack_decode w _ h).trans BitVec.and_allOnes
    exact ⟨hw.symm, by rwa [hw]⟩
  · rintro ⟨rfl, h⟩
    exact h

theorem wf_of_decode {w : Word} {i : Instr} (h : decode w = .ok i) : i.wf = true := by
  cases i with
  | sys nnn =>
    obtain ⟨_, hfree⟩ := (decode_eq_sys_iff w nnn).mp h
    exact hfree
  | _ => rfl

/-- Every instruction encodes in its row: the laws per instruction, gathered. -/
theorem encode_and_mask : ∀ i : Instr, encode i &&& (tableRow i).mask = (tableRow i).bits
  | .sys nnn => Laws.EncodesInTableRow.sys nnn
  | .cls => Laws.EncodesInTableRow.cls
  | .ret => Laws.EncodesInTableRow.ret
  | .jp nnn => Laws.EncodesInTableRow.jp nnn
  | .call nnn => Laws.EncodesInTableRow.call nnn
  | .seImm x kk => Laws.EncodesInTableRow.seImm x kk
  | .sneImm x kk => Laws.EncodesInTableRow.sneImm x kk
  | .seReg x y => Laws.EncodesInTableRow.seReg x y
  | .ldImm x kk => Laws.EncodesInTableRow.ldImm x kk
  | .addImm x kk => Laws.EncodesInTableRow.addImm x kk
  | .ldReg x y => Laws.EncodesInTableRow.ldReg x y
  | .orReg x y => Laws.EncodesInTableRow.orReg x y
  | .andReg x y => Laws.EncodesInTableRow.andReg x y
  | .xorReg x y => Laws.EncodesInTableRow.xorReg x y
  | .addReg x y => Laws.EncodesInTableRow.addReg x y
  | .subReg x y => Laws.EncodesInTableRow.subReg x y
  | .shr x => Laws.EncodesInTableRow.shr x
  | .subn x y => Laws.EncodesInTableRow.subn x y
  | .shl x => Laws.EncodesInTableRow.shl x
  | .sneReg x y => Laws.EncodesInTableRow.sneReg x y
  | .ldI nnn => Laws.EncodesInTableRow.ldI nnn
  | .jpV0 nnn => Laws.EncodesInTableRow.jpV0 nnn
  | .rnd x kk => Laws.EncodesInTableRow.rnd x kk
  | .drw x y n => Laws.EncodesInTableRow.drw x y n
  | .skp x => Laws.EncodesInTableRow.skp x
  | .sknp x => Laws.EncodesInTableRow.sknp x
  | .ldVxDt x => Laws.EncodesInTableRow.ldVxDt x
  | .ldVxK x => Laws.EncodesInTableRow.ldVxK x
  | .ldDtVx x => Laws.EncodesInTableRow.ldDtVx x
  | .ldStVx x => Laws.EncodesInTableRow.ldStVx x
  | .addI x => Laws.EncodesInTableRow.addI x
  | .ldF x => Laws.EncodesInTableRow.ldF x
  | .ldB x => Laws.EncodesInTableRow.ldB x
  | .storeRegs x => Laws.EncodesInTableRow.storeRegs x
  | .loadRegs x => Laws.EncodesInTableRow.loadRegs x

/-- The bits a row fixes are bits its instruction uses (R55). -/
theorem usedBits_and_mask (i : Instr) : i.usedBits &&& (tableRow i).mask = (tableRow i).mask := by
  cases i <;> simp only [Instr.usedBits, tableRow] <;> rfl

/-- Settles O4: the row's fixed bits are among those the word shares with the encoding, which has them at
the row's values. -/
theorem decodedWordMatchesItsRow : Obligations.DecodedWordMatchesItsRow := by
  unfold Obligations.DecodedWordMatchesItsRow
  intro w i h
  refine ⟨wf_of_decode h, ?_⟩
  calc w &&& (tableRow i).mask
      = (w &&& i.usedBits) &&& (tableRow i).mask := by rw [BitVec.and_assoc, usedBits_and_mask]
    _ = encode i &&& (tableRow i).mask := by rw [encodesBack_decode w i h]
    _ = (tableRow i).bits := encode_and_mask i

/-! ### The words that select nothing (R56) -/

theorem decodeFamily8_ne_ok_iff (w : Word) :
    (∀ i, decodeFamily8 w ≠ .ok i) ↔ (nField w).toNat ∈ [0x8, 0x9, 0xA, 0xB, 0xC, 0xD, 0xF] := by
  have hlt := (nField w).isLt
  unfold decodeFamily8
  split
  case h_10 => exact iff_of_true nofun (by simp only [List.mem_cons]; grind)
  all_goals simp [*]

theorem decodeFamilyE_ne_ok_iff (w : Word) :
    (∀ i, decodeFamilyE w ≠ .ok i) ↔ (kkField w).toNat ∉ [0x9E, 0xA1] := by
  unfold decodeFamilyE
  split <;> simp_all

theorem decodeFamilyF_ne_ok_iff (w : Word) :
    (∀ i, decodeFamilyF w ≠ .ok i) ↔
      (kkField w).toNat ∉ [0x07, 0x0A, 0x15, 0x18, 0x1E, 0x29, 0x33, 0x55, 0x65] := by
  unfold decodeFamilyF
  split <;> simp_all

/-- Only families 8, E and F have words that select nothing. -/
theorem decode_ne_ok_iff (w : Word) :
    (∀ i, decode w ≠ .ok i) ↔
      (opField w = 0x8 ∧ ∀ i, decodeFamily8 w ≠ .ok i) ∨
      (opField w = 0xE ∧ ∀ i, decodeFamilyE w ≠ .ok i) ∨
      (opField w = 0xF ∧ ∀ i, decodeFamilyF w ≠ .ok i) := by
  have hlt := opField_lt w
  unfold decode
  split
  case h_16 =>
    have hop : opField w = 0xF := by grind
    simp [hop]
  all_goals simp [*]

theorem exists_decode_eq_sys_iff (w : Word) :
    (∃ nnn, decode w = .ok (.sys nnn)) ↔
      w.toNat / 0x1000 = 0 ∧ w.toNat % 256 ∉ [0xE0, 0xEE] := by
  constructor
  · rintro ⟨nnn, h⟩
    obtain ⟨rfl, hfree⟩ := (decode_eq_sys_iff w nnn).mp h
    rw [← opField_eq_div, ← toNat_kkField, toNat_kkField_packNNN, opField_packNNN]
    simpa [sysLowByteFree] using hfree
  · rintro ⟨hop, hkk⟩
    rw [← opField_eq_div] at hop
    refine ⟨nnnField w, (decode_eq_sys_iff w _).mpr ⟨(packNNN_fields hop).symm, ?_⟩⟩
    simpa [sysLowByteFree, toNat_nnnField] using hkk

/-- Settles O5: the families' own lists, with op, n and kk written as parts of the word's number. -/
theorem wordsThatSelectNothing : Obligations.WordsThatSelectNothing := by
  unfold Obligations.WordsThatSelectNothing
  refine fun w => ⟨?_, exists_decode_eq_sys_iff w⟩
  rw [decode_ne_ok_iff, decodeFamily8_ne_ok_iff, decodeFamilyE_ne_ok_iff, decodeFamilyF_ne_ok_iff,
    opField_eq_div, toNat_nField, toNat_kkField]

end Sys2Proof

namespace Sys2Proof.Machine

/-! ### The step at a word that selects nothing -/

/-- A step that writes a record returns its kind (R66). -/
theorem State.stepResult_of_fault {s t : State} {record : FaultRecord} (h : step s = .next t)
    (ht : t.fault = some record) : s.stepResult = some (.faulted record.kind) := by
  rw [State.stepResult, h]
  simp [State.resultOf, ht]

/-- Settles O7: the step raises `IllegalOpcode` on the pre-advanced state, and the fault undoes the step
but for its record (R59). -/
theorem illegalWordFaults : Obligations.IllegalWordFaults := by
  unfold Obligations.IllegalWordFaults
  intro s w hF hnothing
  have hstep : step s = .next { s with fault := some ⟨.illegalOpcode, s.pc, some w⟩ } := by
    rw [step_of_fetches hF, State.runWord]
    cases hd : decode w with
    | ok i => exact absurd hd (hnothing i)
    | error r => exact congrArg Host.Outcome.next (State.settle_of_raise rfl)
  exact ⟨hstep, State.stepResult_of_fault hstep rfl⟩

end Sys2Proof.Machine
end

section
/-! SUPPORT. The dispatch of a step: it always answers on an unfaulted core, what each of its paths answers
and returns, and that an idle machine stays idle (40_dispatch.md R59–R68). -/

namespace Sys2Proof.Machine

/-! ### Every step of an unfaulted core answers -/

/-- Settles O14: a handler that raises answers a next state too (`exec_answers`). -/
theorem everyInstructionAnswersNext : Obligations.EveryInstructionAnswersNext := by
  unfold Obligations.EveryInstructionAnswersNext
  intro i s
  rcases exec_answers i s with ⟨k, _, heq⟩ | ⟨u, _, heq⟩
  · exact ⟨s.faultedWith k, heq⟩
  · exact ⟨u, heq⟩

/-- A fetch that fails records its fault, with no word, and changes nothing else (R60, R108). -/
theorem step_of_fetch_error {s : State} {k : FaultKind} (hf : s.fault = none)
    (hw : s.awaitingKey = false) (hk : s.fetchWord true = .error k) :
    step s = .next { s with fault := some ⟨k, s.pc, none⟩ } := by
  rw [step_of_cycle hf hw, State.cycle, hk]
  rfl

/-- An unfaulted core that waits for no key fails to fetch, or fetches a word (R60). -/
theorem State.fetch_error_or_fetches {s : State} (hf : s.fault = none)
    (hw : s.awaitingKey = false) : (∃ k, s.fetchWord true = .error k) ∨ ∃ w, s.Fetches w := by
  rcases s.fetchWord_cases with ⟨_, hk⟩ | ⟨_, _, hk⟩ | ⟨heven, htop, _⟩
  · exact .inl ⟨_, hk⟩
  · exact .inl ⟨_, hk⟩
  · exact .inr ⟨_, hf, hw, heven, htop, rfl⟩

theorem State.Fetches.exists_step_eq_next {s : State} {w : Word} (hF : s.Fetches w) :
    ∃ t, step s = .next t := by
  cases hd : decode w with
  | ok i =>
    obtain ⟨u, hu⟩ := everyInstructionAnswersNext i (s.preAdvanced w)
    exact ⟨s.settle u, by rw [hF.step_eq hd, hu]; rfl⟩
  | error r =>
    have hnothing : ∀ i, decode w ≠ .ok i := by simp [hd]
    obtain ⟨hstep, _⟩ := illegalWordFaults s w hF hnothing
    exact ⟨_, hstep⟩

theorem exists_step_eq_next {s : State} (hf : s.fault = none) : ∃ t, step s = .next t := by
  cases hw : s.awaitingKey with
  | true => exact ⟨_, step_of_wait hf hw⟩
  | false =>
    rcases State.fetch_error_or_fetches hf hw with ⟨k, hk⟩ | ⟨w, hF⟩
    · exact ⟨_, step_of_fetch_error hf hw hk⟩
    · exact hF.exists_step_eq_next

/-- Settles O13: a faulted core answers its fault (`step_of_fault`), any other a next state
(`exists_step_eq_next`). -/
theorem stepAnswersUnlessFaulted : Obligations.StepAnswersUnlessFaulted := by
  unfold Obligations.StepAnswersUnlessFaulted
  intro s
  cases hf : s.fault with
  | some record => simp [step_of_fault hf]
  | none =>
    obtain ⟨t, ht⟩ := exists_step_eq_next hf
    simp [ht]

/-! ### What a step returns -/

/-- A step that writes no record returns `Waiting` if a wait is pending before and after it, else `Ok`
(R66). -/
theorem State.stepResult_of_unfaulted {s t : State} (h : step s = .next t) (ht : t.fault = none) :
    s.stepResult = some (if s.awaitingKey && t.awaitingKey then .waiting else .ok) := by
  rw [State.stepResult, h]
  simp [State.resultOf, ht]

/-! ### Faults -/

/-- Settles O9: by `step_of_fault`, from which what `Step()` returns and what it leaves are read off. -/
theorem faultedCoreIsStuck : Obligations.FaultedCoreIsStuck := by
  unfold Obligations.FaultedCoreIsStuck
  intro s record hf
  have hstep := step_of_fault hf
  exact ⟨hstep, by rw [State.stepResult, hstep], by rw [State.after, hstep]⟩

/-- Settles O8: an odd PC fails the first of the fetch's checks, an even one above 0xFFE the second
(`State.fetchWord_cases`). -/
theorem badFetchFaults : Obligations.BadFetchFaults := by
  unfold Obligations.BadFetchFaults
  intro s hf hw
  have hfaults {k : FaultKind} (hk : s.fetchWord true = .error k) :
      step s = .next { s with fault := some ⟨k, s.pc, none⟩ } ∧
        s.stepResult = some (.faulted k) :=
    have hstep := step_of_fetch_error hf hw hk
    ⟨hstep, State.stepResult_of_fault hstep rfl⟩
  rcases s.fetchWord_cases with ⟨hodd, hk⟩ | ⟨heven, hhigh, hk⟩ | ⟨heven, htop, _⟩
  · exact ⟨fun _ => hfaults hk, fun h => by omega⟩
  · exact ⟨fun h => by omega, fun _ _ => hfaults hk⟩
  · exact ⟨fun h => by omega, fun _ h => by omega⟩

/-- Settles O6: the step settles what the handler left (`State.Fetches.step_eq`), whether it raised or
not. -/
theorem stepRunsTheDecodedInstruction : Obligations.StepRunsTheDecodedInstruction := by
  unfold Obligations.StepRunsTheDecodedInstruction
  intro s t w i hF hd hexec
  rw [hF.step_eq hd, hexec, State.settleResult]
  cases hr : t.fault with
  | none => rw [State.settle_of_none s hr]
  | some record => rw [State.settle_of_some s hr]

/-- A step that ran an instruction leaves no record, or the state before it with a record of its own
address (R59, R64). -/
theorem State.Fetches.settle_exec_cases {s u : State} {w : Word} {i : Instr} (hF : s.Fetches w)
    (hu : exec i (s.preAdvanced w) = .next u) :
    (s.settle u).fault = none ∨
      ∃ record : FaultRecord, record.pc = s.pc ∧ s.settle u = { s with fault := some record } := by
  rcases exec_answers i (s.preAdvanced w) with ⟨k, _, heq⟩ | ⟨u', hc, heq⟩
  · exact .inr ⟨_, rfl, State.settle_of_raise (heq.symm.trans hu)⟩
  · cases heq.symm.trans hu
    have hnone := hc.fault.trans hF.fault_eq_none
    exact .inl (by rw [State.settle_of_none s hnone, hnone])

theorem State.resolveKeyWait_fault (s : State) : s.resolveKeyWait.fault = s.fault := by
  rcases s.resolveKeyWait_cases with ⟨_, heq⟩ | ⟨_, _, heq⟩
  · rw [heq]
  · rw [heq]

/-- Whatever path a step takes, it leaves no record, or the state before it with a record of its own
address (R64, R108). -/
theorem step_fault_cases {s t : State} (hf : s.fault = none) (h : step s = .next t) :
    t.fault = none ∨
      ∃ record : FaultRecord, record.pc = s.pc ∧ t = { s with fault := some record } := by
  rcases step_cases hf h with ⟨_, rfl⟩ | ⟨_, _, rfl⟩ | ⟨_, _, _, rfl⟩ | ⟨_, _, _, rfl⟩ |
    ⟨_, _, _, hF, _, hu, rfl⟩
  · exact .inl (s.resolveKeyWait_fault.trans hf)
  · exact .inr ⟨_, rfl, rfl⟩
  · exact .inr ⟨_, rfl, rfl⟩
  · exact .inr ⟨_, rfl, rfl⟩
  · exact hF.settle_exec_cases hu

/-- Settles O12: the record found is the one the step wrote (`step_fault_cases`). -/
theorem faultIsPrecise : Obligations.FaultIsPrecise := by
  unfold Obligations.FaultIsPrecise
  intro s t record hf hstep hrecord
  have hresult := State.stepResult_of_fault hstep hrecord
  rcases step_fault_cases hf hstep with hnone | ⟨r, hpc, rfl⟩
  · exact absurd (hnone.symm.trans hrecord) nofun
  · cases hrecord
    exact ⟨rfl, hpc, hresult⟩

/-! ### The wait for a key -/

/-- Settles O10: with every key up the wait goes on (`State.resolveKeyWait_cases`). -/
theorem waitWithNoKeyChangesNothing : Obligations.WaitWithNoKeyChangesNothing := by
  unfold Obligations.WaitWithNoKeyChangesNothing
  intro s hf hw hup
  rcases s.resolveKeyWait_cases with ⟨_, heq⟩ | ⟨k, hdown, _⟩
  · have hstep : step s = .next s := (step_of_wait hf hw).trans (congrArg _ heq)
    exact ⟨hstep, by simp [State.stepResult_of_unfaulted hstep hf, hw]⟩
  · exact absurd hdown (by simp [hup k])

/-- Settles O11: with a key down the wait ends with one of the pressed keys
(`State.resolveKeyWait_cases`), whose number fits a register. -/
theorem waitEndsWithAPressedKey : Obligations.WaitEndsWithAPressedKey := by
  unfold Obligations.WaitEndsWithAPressedKey
  intro s hf hw ⟨j, hj⟩
  rcases s.resolveKeyWait_cases with ⟨hup, _⟩ | ⟨k, hdown, heq⟩
  · exact absurd hj (by simp [hup j])
  · have hstep := (step_of_wait hf hw).trans (congrArg _ heq)
    refine ⟨_, k, hstep, hdown, ?_, fun r hr => ?_, rfl, ?_⟩
    · have hreg := s.reg_setReg_same s.awaitReg (BitVec.ofNat 8 k)
      exact (congrArg BitVec.toNat hreg).trans (Nat.mod_eq_of_lt (by omega))
    · exact s.reg_setReg_other (BitVec.ofNat 8 k) hr
    · simp [State.stepResult_of_unfaulted hstep hf]

/-! ### Idling -/

/-- The word `JP a` as R68 writes it is the one the encoder packs (R50). -/
theorem jpWord_eq_encode (a : Imm12) : (0x1000 : Word) ||| addr12 a = encode (.jp a) :=
  BitVec.eq_of_toNat_eq (by
    rw [BitVec.toNat_or, toNat_addr12]
    exact (BitVec.toNat_append (0x1 : Nibble) a).symm)

theorem decode_jpWord (a : Imm12) : decode ((0x1000 : Word) ||| addr12 a) = .ok (.jp a) := by
  rw [jpWord_eq_encode]
  exact decodeOfEncodeIsTheInstruction (.jp a) rfl

theorem State.IdleAt.fetches {s : State} {a : Imm12} (h : s.IdleAt a) :
    s.Fetches ((0x1000 : Word) ||| addr12 a) := by
  obtain ⟨hf, hw, hpc, heven, htop, hword⟩ := h
  have ha : s.pc.toNat = a.toNat := by rw [hpc, toNat_addr12]
  rw [← ha] at heven htop hword
  exact ⟨hf, hw, heven, htop, hword.symm⟩

/-- At an idle core, `JP a` puts back the PC that the fetch advanced: only the latched word is left. -/
theorem State.IdleAt.exec_jp {s : State} {a : Imm12} (h : s.IdleAt a) (w : Word) :
    exec (.jp a) (s.preAdvanced w) = .next { s with opcode := w } := by
  obtain ⟨_, _, hpc, _⟩ := h
  change Host.Outcome.next { s with pc := addr12 a, opcode := w } = _
  rw [← hpc]

/-- Settles O31: the step fetches `JP a` (`State.IdleAt.fetches`) and keeps what `JP` leaves
(`State.IdleAt.exec_jp`), which has no record. -/
theorem idleIsAFixedPoint : Obligations.IdleIsAFixedPoint := by
  unfold Obligations.IdleIsAFixedPoint
  intro s a hidle
  have hstep : step s = .next { s with opcode := (0x1000 : Word) ||| addr12 a } := by
    rw [hidle.fetches.step_eq (decode_jpWord a), hidle.exec_jp]
    exact congrArg Host.Outcome.next (State.settle_of_none s hidle.fetches.fault_eq_none)
  have hw := hidle.fetches.awaitingKey_eq_false
  refine ⟨_, hstep, rfl, hidle, ?_⟩
  simp [State.stepResult_of_unfaulted hstep hidle.fetches.fault_eq_none, hw]

end Sys2Proof.Machine
end

section
/-! SUPPORT. The display instructions: what `CLS` leaves, and what a draw leaves under each row policy, or
the fault it raises (41_display.md R69, R70). -/

namespace Sys2Proof.Machine

/-- Settles O48: the framebuffer `CLS` writes has every pixel off (`Framebuffer.pixel_clear`). -/
theorem clearTurnsEveryPixelOff : Obligations.ClearTurnsEveryPixelOff := by
  unfold Obligations.ClearTurnsEveryPixelOff
  exact fun s => ⟨s.setFb Framebuffer.clear, rfl, Framebuffer.pixel_clear, rfl⟩

theorem flagOf_eq_one_iff (c : Bool) : flagOf c = 1 ↔ c = true := by
  cases c
  · decide
  · decide

/-! ### The checks of a draw (R109) -/

section Checks

variable {s : State} {policy : Config.RowPolicy} {y : Reg} {n : Nibble}

theorem State.rowsOverflow_iff_not_rowsFit :
    s.rowsOverflow policy y n = true ↔ policy = .fault ∧ ¬ s.rowsFit y n := by
  rw [State.rowsOverflow_iff, State.rowsFit]
  exact and_congr_right fun _ => by omega

theorem State.checkRange_of_bytesFit {len : Nat} (hbytes : s.bytesFit len) (k : Result) :
    s.checkRange s.base len k = k :=
  s.checkRange_ok k hbytes

theorem State.drawUnder_of_not_bytesFit (x : Reg) (hbytes : ¬ s.bytesFit n.toNat) :
    s.drawUnder policy x y n =
      .next (s.faultedWith (.memOutOfBounds (s.index.toNat + n.toNat - 1))) := by
  unfold State.bytesFit at hbytes
  exact s.checkRange_raise _ (by omega) (by rw [State.base]; omega)

theorem State.drawUnder_of_not_rowsFit (x : Reg) (hbytes : s.bytesFit n.toNat)
    (hrows : ¬ s.rowsFit y n) :
    s.drawUnder .fault x y n =
      .next (s.faultedWith (.drawRowOverflow ((s.reg y).toNat % 32 + n.toNat - 1))) := by
  rw [State.drawUnder, State.checkRange_of_bytesFit hbytes,
    if_pos (State.rowsOverflow_iff_not_rowsFit.mpr ⟨rfl, hrows⟩)]
  rfl

end Checks

/-- Settles O50: the bytes are checked first, the rows behind them. -/
theorem drawOutOfRangeFaults : Obligations.DrawOutOfRangeFaults := by
  unfold Obligations.DrawOutOfRangeFaults
  exact fun x _ _ _ => ⟨State.drawUnder_of_not_bytesFit x, State.drawUnder_of_not_rowsFit x⟩

/-! ### What a draw leaves (R70) -/

/-- The state a draw that passes its checks leaves: the canvas's pixels, then VF. -/
def State.afterDraw (s : State) (policy : Config.RowPolicy) (x y : Reg) (n : Nibble) : State :=
  (s.setFb (s.drawn policy x y n).fb).setReg vf (collisionFlag (s.drawn policy x y n))

/-- A draw whose bytes fit, and whose rows fit where the policy asks it, passes its checks. -/
theorem State.drawUnder_eq_afterDraw {s : State} {policy : Config.RowPolicy} {y : Reg} {n : Nibble}
    (x : Reg) (hbytes : s.bytesFit n.toNat) (hrows : policy = .fault → s.rowsFit y n) :
    s.drawUnder policy x y n = .next (s.afterDraw policy x y n) := by
  have hinside : ¬ s.rowsOverflow policy y n = true := fun hover =>
    have ⟨hpolicy, hbeyond⟩ := State.rowsOverflow_iff_not_rowsFit.mp hover
    hbeyond (hrows hpolicy)
  rw [State.drawUnder, State.checkRange_of_bytesFit hbytes, if_neg hinside]
  rfl

section AfterDraw

variable (s : State) (policy : Config.RowPolicy) (x y : Reg) (n : Nibble)

theorem State.pixel_afterDraw (r : Fin 32) (c : Fin 64) :
    (s.afterDraw policy x y n).fb.pixel r c = (s.fb.pixel r c ^^ s.covers policy x y n r c) :=
  s.pixel_drawn policy x y n r c

theorem State.reg_afterDraw_other {r : Reg} (hr : r ≠ 15) :
    (s.afterDraw policy x y n).reg r = s.reg r :=
  State.reg_setReg_other _ _ hr

theorem State.reg_afterDraw_vf :
    (s.afterDraw policy x y n).reg 15 = flagOf (s.drawn policy x y n).hit :=
  State.reg_setReg_same _ vf _

/-- VF is 1 after a draw exactly if a covered pixel was on. -/
theorem State.reg_afterDraw_vf_eq_one_iff :
    (s.afterDraw policy x y n).reg 15 = 1 ↔
      ∃ r c, s.covers policy x y n r c = true ∧ s.fb.pixel r c = true := by
  rw [State.reg_afterDraw_vf, flagOf_eq_one_iff, State.hit_drawn]

theorem State.reg_afterDraw_vf_eq_zero
    (hoff : ∀ r c, s.covers policy x y n r c = true → s.fb.pixel r c = false) :
    (s.afterDraw policy x y n).reg 15 = 0 := by
  have hmiss : ¬ (s.drawn policy x y n).hit = true := by
    rw [State.hit_drawn]
    rintro ⟨r, c, hcov, hon⟩
    exact Bool.false_ne_true ((hoff r c hcov).symm.trans hon)
  rw [State.reg_afterDraw_vf, Bool.eq_false_of_not_eq_true hmiss]
  rfl

end AfterDraw

/-- A draw that passes its checks inverts the covered pixels, sets VF to whether one of them was on, and
changes nothing else, whatever the row policy. -/
theorem drawUnder_inverts_covered_pixels (policy : Config.RowPolicy) (x y : Reg) (n : Nibble)
    (s : State) (hbytes : s.bytesFit n.toNat) (hrows : policy = .fault → s.rowsFit y n) :
    ∃ t, s.drawUnder policy x y n = .next t ∧
      (∀ r c, t.fb.pixel r c = (s.fb.pixel r c ^^ s.covers policy x y n r c)) ∧
      ((∃ r c, s.covers policy x y n r c = true ∧ s.fb.pixel r c = true) → t.reg 15 = 1) ∧
      ((∀ r c, s.covers policy x y n r c = true → s.fb.pixel r c = false) → t.reg 15 = 0) ∧
      (∀ r, r ≠ 15 → t.reg r = s.reg r) ∧ t = { s with v := t.v, fb := t.fb } :=
  ⟨s.afterDraw policy x y n, State.drawUnder_eq_afterDraw x hbytes hrows,
    s.pixel_afterDraw policy x y n, (s.reg_afterDraw_vf_eq_one_iff policy x y n).mpr,
    s.reg_afterDraw_vf_eq_zero policy x y n, fun _ => s.reg_afterDraw_other policy x y n, rfl⟩

/-- Settles O49: `DRW` draws under the policy `fault`, whose rows fit. -/
theorem drawInvertsCoveredPixels : Obligations.DrawInvertsCoveredPixels := by
  unfold Obligations.DrawInvertsCoveredPixels
  intro x y n s hbytes hrows
  exact drawUnder_inverts_covered_pixels .fault x y n s hbytes fun _ => hrows

/-- Settles O51: the other policies ask nothing of the rows. -/
theorem drawUnderClipAndWrap : Obligations.DrawUnderClipAndWrap := by
  unfold Obligations.DrawUnderClipAndWrap
  intro policy x y n s hpolicy hbytes
  exact drawUnder_inverts_covered_pixels policy x y n s hbytes fun h => absurd h hpolicy

/-! ### The same draw twice (S4) -/

section Twice

variable (s : State) (policy : Config.RowPolicy) {x y : Reg} (n : Nibble)

/-- A draw moves no later draw whose coordinates are not in VF. -/
theorem State.covers_afterDraw (hx : x ≠ 15) (hy : y ≠ 15) :
    (s.afterDraw policy x y n).covers policy x y n = s.covers policy x y n := by
  funext r c
  unfold State.covers
  rw [s.reg_afterDraw_other policy x y n hx, s.reg_afterDraw_other policy x y n hy]
  rfl

/-- The second draw inverts the same pixels back. -/
theorem State.fb_afterDraw_twice (hx : x ≠ 15) (hy : y ≠ 15) :
    ((s.afterDraw policy x y n).afterDraw policy x y n).fb = s.fb :=
  Framebuffer.ext_pixel fun r c => by
    rw [State.pixel_afterDraw, State.pixel_afterDraw, s.covers_afterDraw policy n hx hy,
      Bool.xor_assoc, Bool.xor_self, Bool.xor_false]

/-- A covered pixel is on before the second draw exactly if it was off before the first. -/
theorem State.reg_afterDraw_twice_vf_eq_one_iff (hx : x ≠ 15) (hy : y ≠ 15) :
    ((s.afterDraw policy x y n).afterDraw policy x y n).reg 15 = 1 ↔
      ∃ r c, s.covers policy x y n r c = true ∧ s.fb.pixel r c = false := by
  rw [State.reg_afterDraw_vf_eq_one_iff, s.covers_afterDraw policy n hx hy]
  refine exists_congr fun r => exists_congr fun c => and_congr_right fun hcov => ?_
  rw [State.pixel_afterDraw, hcov, Bool.xor_true, Bool.not_eq_true']

end Twice

/-- Settles O52: the second draw fits as the first did, its row register and I being unchanged. -/
theorem drawTwiceRestoresTheScreen : Obligations.DrawTwiceRestoresTheScreen := by
  unfold Obligations.DrawTwiceRestoresTheScreen
  intro x y n s hx hy hbytes hrows
  have hrows' : (s.afterDraw .fault x y n).rowsFit y n := by
    rwa [State.rowsFit, s.reg_afterDraw_other .fault x y n hy]
  exact ⟨_, _, State.drawUnder_eq_afterDraw x hbytes fun _ => hrows,
    State.drawUnder_eq_afterDraw x hbytes fun _ => hrows',
    s.fb_afterDraw_twice .fault n hx hy, s.reg_afterDraw_twice_vf_eq_one_iff .fault n hx hy⟩

end Sys2Proof.Machine
end

section
/-! SUPPORT. Control flow: what `CALL` and `RET` leave or raise, a skip and a jump as changes of PC alone, and
a call that comes back (42_control_flow.md R71–R79). -/

namespace Sys2Proof.Machine

/-! ### Steps that raise nothing -/

/-- A step whose handler writes no record leaves what the handler left (R59, R64). -/
theorem State.Fetches.step_eq_next {s u : State} {w : Word} {i : Instr} (hF : s.Fetches w)
    (hd : decode w = .ok i) (hu : exec i (s.preAdvanced w) = .next u) (hnone : u.fault = none) :
    step s = .next u := by
  rw [stepRunsTheDecodedInstruction s u w i hF hd hu, hnone]

/-! ### The call stack (R72, R74) -/

section CallStack

variable {s : State}

/-- What `CALL nnn` leaves when there is room: PC in the entry at SP, SP one more, PC at nnn (R74). -/
def State.afterCall (s : State) (nnn : Imm12) (hroom : s.sp.val < 16) : State :=
  { s with stack := s.stack.set s.sp.val s.pc hroom, sp := ⟨s.sp.val + 1, by omega⟩, pc := addr12 nnn }

theorem exec_call_of_room (nnn : Imm12) (hroom : s.sp.val < 16) :
    exec (.call nnn) s = .next (s.afterCall nnn hroom) :=
  dif_pos hroom

theorem exec_call_of_full (nnn : Imm12) (hfull : s.sp = 16) :
    exec (.call nnn) s = .next (s.faultedWith .stackOverflow) :=
  dif_neg (by rw [hfull]; decide)

/-- The entry a call wrote holds the PC it saw, and the others are kept (R19, R74). -/
theorem State.getElem_stack_afterCall (nnn : Imm12) (hroom : s.sp.val < 16) (j : Fin 16) :
    (s.afterCall nnn hroom).stack[j] = if j.val = s.sp.val then s.pc else s.stack[j] := by
  simp only [State.afterCall, Fin.getElem_fin, Vector.getElem_set, eq_comm]

/-- `RET` with the entry `j` on top of the stack goes to that entry, and `j` is the new SP (R72). -/
theorem exec_ret_of_entry {j : Fin 16} (hj : s.sp.val = j.val + 1) :
    exec .ret s = .next { s with sp := j.castSucc, pc := s.stack[j] } := by
  change execRet s = _
  unfold execRet
  rcases s.pop_cases (fun a t => .next (t.setPc a)) with ⟨hempty, _⟩ | ⟨k, hk, hsp, heq⟩
  · simp [hempty] at hj
  · obtain rfl : j = ⟨k, hk⟩ := Fin.ext (by simp only; omega)
    exact heq

theorem exec_ret_of_empty (hempty : s.sp = 0) :
    exec .ret s = .next (s.faultedWith .stackUnderflow) := by
  change execRet s = _
  unfold execRet
  rcases s.pop_cases (fun a t => .next (t.setPc a)) with ⟨_, heq⟩ | ⟨k, _, hsp, _⟩
  · exact heq
  · simp [hempty] at hsp

end CallStack

/-- Settles O23: by what a call with room leaves (`State.getElem_stack_afterCall`), and the fault without. -/
theorem callPushesTheReturnAddress : Obligations.CallPushesTheReturnAddress := by
  unfold Obligations.CallPushesTheReturnAddress
  exact fun nnn s =>
    ⟨fun hroom => ⟨s.afterCall nnn hroom, exec_call_of_room nnn hroom, rfl,
      State.getElem_stack_afterCall nnn hroom, rfl⟩, exec_call_of_full nnn⟩

/-- Settles O24: by what a return with an entry leaves, and the fault without one. -/
theorem returnPopsTheReturnAddress : Obligations.ReturnPopsTheReturnAddress := by
  unfold Obligations.ReturnPopsTheReturnAddress
  exact fun s => ⟨fun j hj => ⟨_, exec_ret_of_entry hj, rfl, rfl⟩, exec_ret_of_empty⟩

/-- Settles O25: the entry the return reads is the one the call wrote, which holds the PC after the fetch
of the call. -/
theorem callThenReturnComesBack : Obligations.CallThenReturnComesBack := by
  unfold Obligations.CallThenReturnComesBack
  intro s w nnn hF hd hroom
  have hcall : step s = .next ((s.preAdvanced w).afterCall nnn hroom) :=
    hF.step_eq_next hd (exec_call_of_room (s := s.preAdvanced w) nnn hroom) hF.fault_eq_none
  refine ⟨_, hcall, rfl, fun w' hF' hd' => ?_⟩
  have hret := hF'.step_eq_next hd' (exec_ret_of_entry (j := ⟨s.sp.val, hroom⟩) rfl) hF'.fault_eq_none
  have hentry := (State.getElem_stack_afterCall (s := s.preAdvanced w) nnn hroom
    ⟨s.sp.val, hroom⟩).trans (if_pos rfl)
  exact ⟨_, hret, hentry, rfl⟩

/-! ### Jumps (R73, R79) -/

/-- Settles O22: `JP` is one write of PC. -/
theorem jumpSetsPc : Obligations.JumpSetsPc := by
  unfold Obligations.JumpSetsPc
  exact fun nnn s => rfl

/-- Settles O28: the sum of V0 and nnn fits 16 bits (`State.toNat_offsetTarget`). -/
theorem jumpWithOffsetAddsV0 : Obligations.JumpWithOffsetAddsV0 := by
  unfold Obligations.JumpWithOffsetAddsV0
  exact fun nnn s => ⟨s.setPc (s.offsetTarget nnn), rfl, s.toNat_offsetTarget nnn, rfl⟩

/-! ### Skips (R75–R78) -/

/-- A skip on a test is a change of PC on the proposition it decides (`State.skipIf_eq`). -/
theorem State.skipIf_of_iff (s : State) {c : Bool} {p : Prop} [Decidable p] (h : c = true ↔ p) :
    s.skipIf c = { s with pc := if p then s.pc + 2 else s.pc } := by
  simp only [State.skipIf_eq, h]

/-- The two comparisons of bytes, as skips: on equality and on inequality. -/
theorem State.next_skipIf_compare (s : State) (a b : Byte) :
    (.next (s.skipIf (a == b)) : Result) = .next { s with pc := if a = b then s.pc + 2 else s.pc } ∧
      (.next (s.skipIf (a != b)) : Result) =
        .next { s with pc := if a ≠ b then s.pc + 2 else s.pc } :=
  ⟨congrArg Host.Outcome.next (s.skipIf_of_iff beq_iff_eq),
    congrArg Host.Outcome.next (s.skipIf_of_iff bne_iff_ne)⟩

/-- Settles O26: the bytes compared are V[x] and kk (`State.next_skipIf_compare`). -/
theorem skipsOnImmediate : Obligations.SkipsOnImmediate := by
  unfold Obligations.SkipsOnImmediate
  exact fun x kk s => s.next_skipIf_compare (s.reg x) kk

/-- Settles O27: the bytes compared are V[x] and V[y] (`State.next_skipIf_compare`). -/
theorem skipsOnRegisters : Obligations.SkipsOnRegisters := by
  unfold Obligations.SkipsOnRegisters
  exact fun x y s => s.next_skipIf_compare (s.reg x) (s.reg y)

/-! ### System calls (R71) -/

/-- Settles O29: the policy `fault` raises, and it is the one the instruction runs under. -/
theorem sysFaultsUnderThePolicy : Obligations.SysFaultsUnderThePolicy := by
  unfold Obligations.SysFaultsUnderThePolicy
  exact fun nnn s => ⟨rfl, rfl, rfl⟩

end Sys2Proof.Machine
end

section
/-! SUPPORT. Registers and arithmetic: a write of one register, and of a register and then the flag, as what
changes and what is kept; sums, differences, shifts and flags as numbers (43_alu.md R80–R92). -/

namespace Sys2Proof.Machine

/-! ### What a write leaves -/

/-- One register write changes that register alone. -/
theorem State.onlyReg_setReg (s : State) (x : Reg) (b : Byte) : OnlyReg s (s.setReg x b) x b :=
  ⟨s.reg_setReg_same x b, fun _ hr => s.reg_setReg_other b hr, rfl⟩

/-- The flag, written last, stands in VF, and the result in its register unless that is VF (R63, R80). -/
theorem State.onlyRegAndFlag_setRegThenFlag (s : State) (x : Reg) (b flag : Byte) :
    OnlyRegAndFlag s (s.setRegThenFlag x b flag) x b flag := by
  refine ⟨?_, fun hx => ?_, fun r hr hvf => ?_, rfl⟩
  · exact (s.reg_setRegThenFlag x 15 b flag).trans (if_pos rfl)
  · exact (s.reg_setRegThenFlag x x b flag).trans ((if_neg hx).trans (if_pos rfl))
  · exact (s.reg_setRegThenFlag x r b flag).trans ((if_neg hvf).trans (if_neg hr))

/-! ### Results and flags as numbers -/

section Values

variable (a b : Byte)

theorem sub_eq_ofNat : a - b = BitVec.ofNat 8 (a.toNat + 256 - b.toNat) := by
  rw [BitVec.sub_def, ← Nat.sub_add_comm b.isLt.le, Nat.add_comm]

theorem ushiftRight_one_eq_ofNat : a >>> 1 = BitVec.ofNat 8 (a.toNat / 2) := by
  apply BitVec.eq_of_toNat_eq
  rw [BitVec.toNat_ushiftRight, Nat.shiftRight_one, BitVec.toNat_ofNat, Nat.mod_eq_of_lt (by omega)]

theorem shiftLeft_one_eq_ofNat : a <<< 1 = BitVec.ofNat 8 (2 * a.toNat) := by
  apply BitVec.eq_of_toNat_eq
  rw [BitVec.toNat_shiftLeft, Nat.shiftLeft_eq, BitVec.toNat_ofNat, Nat.mul_comm, Nat.pow_one]

theorem flagOf_decide (p : Prop) [Decidable p] : flagOf (decide p) = if p then 1 else 0 := by
  simp only [flagOf, decide_eq_true_eq]

/-- A bit as VF holds it is that binary digit of the byte's number. -/
theorem flagOf_getLsbD (k : Nat) :
    flagOf (a.getLsbD k) = BitVec.ofNat 8 (a.toNat / 2 ^ k % 2) := by
  have hflag : ∀ c : Bool, flagOf c = BitVec.ofNat 8 c.toNat := by decide
  rw [hflag, BitVec.getLsbD, Nat.toNat_testBit]

theorem lowBitFlag_eq_ofNat : lowBitFlag a = BitVec.ofNat 8 (a.toNat % 2) := by
  rw [lowBitFlag, flagOf_getLsbD, Nat.pow_zero, Nat.div_one]

/-- Bit 7 is the byte's top bit: nothing is left above it to reduce. -/
theorem highBitFlag_eq_ofNat : highBitFlag a = BitVec.ofNat 8 (a.toNat / 128) := by
  have htop : a.toNat / 128 < 2 := by omega
  exact (flagOf_getLsbD a 7).trans (congrArg (BitVec.ofNat 8) (Nat.mod_eq_of_lt htop))

end Values

/-! ### Without a flag (R81–R86) -/

/-- Settles O32: both loads are one register write (`State.onlyReg_setReg`). -/
theorem loadsWriteOneRegister : Obligations.LoadsWriteOneRegister := by
  unfold Obligations.LoadsWriteOneRegister
  exact fun x y kk s =>
    ⟨⟨_, rfl, s.onlyReg_setReg x kk⟩, ⟨_, rfl, s.onlyReg_setReg x (s.reg y)⟩⟩

/-- Settles O33: one register write, of the sum of bytes. -/
theorem addImmediateHasNoFlag : Obligations.AddImmediateHasNoFlag := by
  unfold Obligations.AddImmediateHasNoFlag
  intro x kk s
  rw [← BitVec.add_def]
  exact ⟨_, rfl, s.onlyReg_setReg x (s.reg x + kk)⟩

/-- Settles O34: each operation is one register write (`State.onlyReg_setReg`). -/
theorem logicWritesOneRegister : Obligations.LogicWritesOneRegister := by
  unfold Obligations.LogicWritesOneRegister
  exact fun x y s =>
    ⟨⟨_, rfl, s.onlyReg_setReg x _⟩, ⟨_, rfl, s.onlyReg_setReg x _⟩, ⟨_, rfl, s.onlyReg_setReg x _⟩⟩

/-! ### With a flag (R87–R91) -/

/-- Settles O35: the sum of bytes, then whether the exact sum passes 255. -/
theorem addRegistersSetsCarry : Obligations.AddRegistersSetsCarry := by
  unfold Obligations.AddRegistersSetsCarry
  intro x y s
  rw [← BitVec.add_def, ← flagOf_decide]
  exact ⟨_, rfl, s.onlyRegAndFlag_setRegThenFlag x _ (carryFlag (s.reg x) (s.reg y))⟩

/-- Settles O36: the difference of bytes (`sub_eq_ofNat`), then the strict comparison of its operands. -/
theorem subtractsSetStrictlyGreater : Obligations.SubtractsSetStrictlyGreater := by
  unfold Obligations.SubtractsSetStrictlyGreater
  intro x y s
  simp only [← sub_eq_ofNat, ← flagOf_decide]
  constructor
  · exact ⟨_, rfl, s.onlyRegAndFlag_setRegThenFlag x _ (greaterFlag (s.reg x) (s.reg y))⟩
  · exact ⟨_, rfl, s.onlyRegAndFlag_setRegThenFlag x _ (greaterFlag (s.reg y) (s.reg x))⟩

/-- Settles O37: the shifts halve and double, and the bit each flag names is that of the number. -/
theorem shiftsCaptureTheBitShiftedOut : Obligations.ShiftsCaptureTheBitShiftedOut := by
  unfold Obligations.ShiftsCaptureTheBitShiftedOut
  intro x s
  constructor
  · rw [← ushiftRight_one_eq_ofNat, ← lowBitFlag_eq_ofNat]
    exact ⟨_, rfl, s.onlyRegAndFlag_setRegThenFlag x _ _⟩
  · rw [← shiftLeft_one_eq_ofNat, ← highBitFlag_eq_ofNat]
    exact ⟨_, rfl, s.onlyRegAndFlag_setRegThenFlag x _ _⟩

/-! ### The random byte (R92) -/

/-- Settles O38: the write of the masked byte, on the state with the draw counted. -/
theorem randomByteIsMasked : Obligations.RandomByteIsMasked := by
  unfold Obligations.RandomByteIsMasked
  intro x kk s
  obtain ⟨hx, hother, _⟩ := s.countDraw.onlyReg_setReg x (Config.randomByte s.draws &&& kk)
  refine ⟨_, rfl, hx, fun hkk => ?_, hother, rfl⟩
  rw [hx, hkk]
  exact BitVec.and_zero

end Sys2Proof.Machine
end

section
/-! SUPPORT. The keypad and the timers: a key test on an index that names a key and on one that does not, and
the copies and the wait as changes of one part each (44_keypad_timers.md R93–R98). -/

namespace Sys2Proof.Machine

/-! ### Key tests (R93, R94) -/

section KeyTest

variable {s : State} {x : Reg}

/-- A key test on the number of a key goes on with that key's state. -/
theorem State.withKey_of_key {k : Reg} (hk : (s.reg x).toNat = k.val) (andThen : Bool → Result) :
    s.withKey x andThen = andThen s.key[k] := by
  rcases s.withKey_cases x andThen with ⟨hhigh, _⟩ | ⟨hlow, heq⟩
  · exact absurd hhigh (by omega)
  · obtain rfl : k = ⟨_, hlow⟩ := Fin.ext hk.symm
    exact heq

/-- A key test on a number above 15 raises, whatever stands behind it (D20). -/
theorem State.withKey_of_high (hhigh : 15 < (s.reg x).toNat) (andThen : Bool → Result) :
    s.withKey x andThen = .next (s.faultedWith (.keyIndexOutOfRange (s.reg x))) := by
  rcases s.withKey_cases x andThen with ⟨_, heq⟩ | ⟨hlow, _⟩
  · exact heq
  · exact absurd hlow (by omega)

end KeyTest

/-- A skip on a test that fails, as a change of PC (`State.skipIf_eq`). -/
theorem State.skipIf_not (s : State) (c : Bool) :
    s.skipIf (!c) = { s with pc := if c = true then s.pc else s.pc + 2 } := by
  cases c <;> rfl

theorem exec_skp (x : Reg) (s : State) :
    exec (.skp x) s = s.withKey x fun pressed => .next (s.skipIf pressed) := rfl

theorem exec_sknp (x : Reg) (s : State) :
    exec (.sknp x) s = s.withKey x fun pressed => .next (s.skipIf !pressed) := rfl

/-- Settles O39: the test finds the key V[x] names (`State.withKey_of_key`) or raises
(`State.withKey_of_high`). -/
theorem skipsOnKey : Obligations.SkipsOnKey := by
  unfold Obligations.SkipsOnKey
  intro x s
  rw [exec_skp, exec_sknp]
  refine ⟨fun k hk => ⟨?_, ?_⟩, fun hhigh =>
    ⟨State.withKey_of_high hhigh _, State.withKey_of_high hhigh _⟩⟩
  · rw [State.withKey_of_key hk, State.skipIf_eq]
  · rw [State.withKey_of_key hk, State.skipIf_not]

/-! ### The timers and the wait (R95–R98) -/

/-- Settles O40: one register write (`State.onlyReg_setReg`), and one write of each timer. -/
theorem timerInstructionsCopy : Obligations.TimerInstructionsCopy := by
  unfold Obligations.TimerInstructionsCopy
  exact fun x s => ⟨⟨s.setReg x s.dt, rfl, s.onlyReg_setReg x s.dt⟩, rfl, rfl⟩

/-- Settles O41: the handler only begins the wait. -/
theorem waitForKeyOnlyBegins : Obligations.WaitForKeyOnlyBegins := by
  unfold Obligations.WaitForKeyOnlyBegins
  exact fun x s => rfl

end Sys2Proof.Machine
end

section
/-! SUPPORT. The index register and the memory instructions: a range check at `I` by the range's last address,
the bytes a store leaves, and sums and digits as numbers (45_index_memory.md R99–R104). -/

namespace Sys2Proof.Machine

/-! ### The range from `I` (R34) -/

section Range

variable {s : State} {k : Nat}

/-- A range from `I` whose last address is in memory passes its check. -/
theorem State.checkRange_of_last_le (hlast : s.index.toNat + k ≤ 0xFFF) (r : Result) :
    s.checkRange s.base (k + 1) r = r :=
  s.checkRange_ok r (.inr (by rw [State.base]; omega))

/-- A range from `I` that passes 0xFFF raises with its last address, whatever stands behind it (D13). -/
theorem State.checkRange_of_lt_last (hlast : 0xFFF < s.index.toNat + k) (r : Result) :
    s.checkRange s.base (k + 1) r =
      .next (s.faultedWith (.memOutOfBounds (s.index.toNat + k))) :=
  s.checkRange_raise r k.succ_pos (by rw [State.base]; omega)

end Range

/-! ### What a store leaves (R36) -/

/-- Byte `k` of a store lies `k` past its address. -/
theorem State.byteAt_storeBytes_add (s : State) (a : Nat) {bytes : List Byte} {k : Nat}
    (hk : k < bytes.length) : (s.storeBytes a bytes).byteAt (a + k) = bytes.getD k 0 := by
  rw [State.byteAt_storeBytes, if_pos ⟨by omega, by omega⟩, Nat.add_sub_cancel_left]

theorem State.byteAt_storeBytes_outside (s : State) (a : Nat) (bytes : List Byte) {b : Nat}
    (hb : b < a ∨ a + bytes.length ≤ b) : (s.storeBytes a bytes).byteAt b = s.byteAt b :=
  s.mem.read_writeBytes_outside a bytes hb

/-! ### The index register (R99–R101) -/

theorem State.toNat_regWord (s : State) (x : Reg) : (s.regWord x).toNat = (s.reg x).toNat :=
  BitVec.toNat_setWidth_of_le (by decide)

/-- The address of the glyph V[x] = 255 still fits in 16 bits, so nothing is lost. -/
theorem State.toNat_glyphAddr (s : State) (x : Reg) :
    (s.glyphAddr x).toNat = 0x050 + (s.reg x).toNat * 5 := by
  rw [State.glyphAddr, Config.fontBase, BitVec.toNat_ofNat, Nat.mod_eq_of_lt (by omega)]

/-- Settles O42: the handler writes the zero-extended immediate to I. -/
theorem loadIndexSetsI : Obligations.LoadIndexSetsI := by
  unfold Obligations.LoadIndexSetsI
  exact fun nnn s => rfl

/-- Settles O43: the sum of words is the sum of their numbers modulo 65536. -/
theorem addIndexWrapsAtSixteenBits : Obligations.AddIndexWrapsAtSixteenBits := by
  unfold Obligations.AddIndexWrapsAtSixteenBits
  intro x s
  refine ⟨s.setIndex (s.index + s.regWord x), rfl, ?_, rfl⟩
  rw [State.setIndex, BitVec.toNat_add, State.toNat_regWord]

/-- Settles O44: I becomes the glyph's address, exactly (`State.toNat_glyphAddr`). -/
theorem glyphAddressIsFiveTimesVx : Obligations.GlyphAddressIsFiveTimesVx := by
  unfold Obligations.GlyphAddressIsFiveTimesVx
  exact fun x s => ⟨s.setIndex (s.glyphAddr x), rfl, s.toNat_glyphAddr x, rfl⟩

/-! ### The decimal digits (R102) -/

/-- The digits of a byte, hundreds first, as numbers: each is small enough for its byte. -/
theorem toNat_bcdDigits (b : Byte) :
    (bcdDigits b).map BitVec.toNat = [b.toNat / 100, b.toNat / 10 % 10, b.toNat % 10] := by
  have hbyte : ∀ {d : Nat}, d < 256 → (BitVec.ofNat 8 d).toNat = d := Nat.mod_eq_of_lt
  rw [bcdDigits, List.map_cons, List.map_cons, List.map_singleton, hbyte (by omega),
    hbyte (by omega), hbyte (by omega)]

/-- Stored from `a` on, digit `k` of a byte lies at `a + k`. -/
theorem State.toNat_byteAt_storeBytes_bcdDigits (s : State) (a : Nat) (b : Byte) {k : Nat}
    (hk : k < 3) :
    ((s.storeBytes a (bcdDigits b)).byteAt (a + k)).toNat =
      [b.toNat / 100, b.toNat / 10 % 10, b.toNat % 10].getD k 0 := by
  have hlen : k < (bcdDigits b).length := by rwa [length_bcdDigits]
  rw [State.byteAt_storeBytes_add s a hlen, ← toNat_bcdDigits]
  exact (List.getD_map _ 0 BitVec.toNat).symm

theorem exec_ldB (x : Reg) (s : State) :
    exec (.ldB x) s =
      s.checkRange s.base 3 (.next (s.storeBytes s.base (bcdDigits (s.reg x)))) := rfl

/-- Settles O45: the check is that of I to I + 2, and behind it the digits are stored in order. -/
theorem bcdStoresThreeDigits : Obligations.BcdStoresThreeDigits := by
  unfold Obligations.BcdStoresThreeDigits
  intro x s
  rw [exec_ldB]
  have hdigit (k : Nat) (hk : k < 3) := s.toNat_byteAt_storeBytes_bcdDigits s.base (s.reg x) hk
  refine ⟨fun hlast => ⟨_, State.checkRange_of_last_le hlast _, hdigit 0 (by decide),
      hdigit 1 (by decide), hdigit 2 (by decide), fun a ha => ?_, rfl⟩,
    fun hlast => State.checkRange_of_lt_last hlast _⟩
  exact s.byteAt_storeBytes_outside s.base _ (by rwa [length_bcdDigits])

/-! ### Register blocks (R103, R104) -/

theorem exec_storeRegs (x : Reg) (s : State) :
    exec (.storeRegs x) s =
      s.checkRange s.base (x + 1) (.next (s.storeBytes s.base (s.regsTo x))) := rfl

/-- Stored from `a` on, V0 to Vx lie at `a` to `a + x`. -/
theorem State.byteAt_storeBytes_regsTo (s : State) (a : Nat) {r x : Reg} (hr : r ≤ x) :
    (s.storeBytes a (s.regsTo x)).byteAt (a + r) = s.reg r := by
  have hlen : r.val < (s.regsTo x).length := by
    rw [State.length_regsTo]
    exact Nat.lt_succ_of_le hr
  rw [State.byteAt_storeBytes_add s a hlen, State.getD_regsTo s x r hr r.isLt]

/-- Settles O46: the check is that of I to I + x, and behind it the registers are stored in order. -/
theorem storeRegistersToMemory : Obligations.StoreRegistersToMemory := by
  unfold Obligations.StoreRegistersToMemory
  intro x s
  rw [exec_storeRegs]
  refine ⟨fun hlast => ⟨_, State.checkRange_of_last_le hlast _, ?_, fun a ha => ?_, rfl⟩,
    fun hlast => State.checkRange_of_lt_last hlast _⟩
  · exact fun r hr => s.byteAt_storeBytes_regsTo s.base hr
  · exact s.byteAt_storeBytes_outside s.base _ (by rwa [State.length_regsTo])

theorem exec_loadRegs (x : Reg) (s : State) :
    exec (.loadRegs x) s = s.checkRange s.base (x + 1) (.next (s.loadRegsFrom x s.base)) := rfl

/-- Settles O47: the check is that of I to I + x, and behind it the registers up to x are loaded
(`State.reg_loadRegsFrom`). -/
theorem loadRegistersFromMemory : Obligations.LoadRegistersFromMemory := by
  unfold Obligations.LoadRegistersFromMemory
  intro x s
  rw [exec_loadRegs]
  refine ⟨fun hlast => ⟨_, State.checkRange_of_last_le hlast _, fun r hr => ?_, fun r hr => ?_, rfl⟩,
    fun hlast => State.checkRange_of_lt_last hlast _⟩
  · exact (s.reg_loadRegsFrom x r s.base).trans (if_pos hr)
  · exact (s.reg_loadRegsFrom x r s.base).trans (if_neg hr.not_ge)

end Sys2Proof.Machine
end

section
/-! SUPPORT. The exceptions and the host's transactions (60_exceptions.md): what a fault an instruction raises
leaves, who writes and who reads the framebuffer, and `Tick()`, `SetKey(k, b)` and the invariant. -/

namespace Sys2Proof.Machine

/-! ### Faults per instruction (R107, R108) -/

/-- A kind whose condition holds is one the instruction may raise: R107's list is R106's conditions with
the state left out. -/
theorem RaiseFits.mayRaise {i : Instr} {s : State} {k : FaultKind} (h : RaiseFits i s k) :
    MayRaise i k := by
  cases k with
  | misalignedPc | fetchOutOfBounds | illegalOpcode | unsupportedSys => exact h
  | stackOverflow =>
    obtain ⟨_, hcall⟩ := h
    exact hcall
  | stackUnderflow =>
    obtain ⟨_, hret⟩ := h
    exact hret
  | memOutOfBounds last =>
    obtain ⟨hlen, _⟩ := h
    exact hlen
  | drawRowOverflow row =>
    obtain ⟨_, x, y, n, hdrw, _⟩ := h
    exact ⟨x, y, n, hdrw⟩
  | keyIndexOutOfRange b =>
    obtain ⟨_, x, _, hkey⟩ := h
    exact ⟨x, hkey⟩

/-- Settles O15: of a handler's two answers, the one that carries on leaves no record, and the raise leaves
the record of a kind whose condition held. -/
theorem faultsPerInstruction : Obligations.FaultsPerInstruction := by
  unfold Obligations.FaultsPerInstruction
  intro i s t record hs h ht
  rcases exec_answers i s with ⟨k, hk, heq⟩ | ⟨u, hu, heq⟩
  · rw [heq, State.raise_eq] at h
    cases h
    cases ht
    exact ⟨hk.mayRaise, rfl⟩
  · cases heq.symm.trans h
    rw [hu.fault, hs] at ht
    cases ht

/-! ### The framebuffer (R24, R118) -/

theorem State.getElem_readFramebuffer (s : State) (r : Fin 32) (c : Fin 64) :
    s.readFramebuffer[r][c] = pixelWord (s.fb.pixel r c) := by
  simp [State.readFramebuffer, Framebuffer.pixel]

section SetFbBefore

variable (s : State) (fb : Framebuffer)

theorem State.checkRange_setFb (a len : Nat) (r : Result) :
    (s.setFb fb).checkRange a len (mapNext (·.setFb fb) r) =
      mapNext (·.setFb fb) (s.checkRange a len r) := by
  unfold State.checkRange
  rw [apply_ite (mapNext (·.setFb fb))]
  rfl

theorem State.skipIf_setFb (c : Bool) : (s.setFb fb).skipIf c = (s.skipIf c).setFb fb := by
  cases c
  · rfl
  · rfl

theorem State.withKey_setFb (x : Reg) (c : Bool → Bool) :
    (s.setFb fb).withKey x (fun pressed => .next ((s.setFb fb).skipIf (c pressed))) =
      mapNext (·.setFb fb) (s.withKey x (fun pressed => .next (s.skipIf (c pressed)))) := by
  have hkey : (s.setFb fb).keyIndex x = s.keyIndex x := rfl
  unfold State.withKey
  rw [hkey]
  cases s.keyIndex x with
  | none => rfl
  | some k => exact congrArg Host.Outcome.next (s.skipIf_setFb fb _)

theorem execCall_setFb (nnn : Imm12) :
    execCall nnn (s.setFb fb) = mapNext (·.setFb fb) (execCall nnn s) := by
  unfold execCall State.push
  rw [apply_dite (mapNext (·.setFb fb))]
  rfl

theorem execRet_setFb : execRet (s.setFb fb) = mapNext (·.setFb fb) (execRet s) := by
  unfold execRet State.pop
  rw [State.setFb_sp]
  split
  · rfl
  · rfl

end SetFbBefore

/-- But for `CLS` and `DRW`, setting the framebuffer before an instruction is setting it after: none of the
others reads or writes it. -/
theorem exec_setFb {i : Instr} (hcls : i ≠ .cls) (hdrw : ∀ x y n, i ≠ .drw x y n) (s : State)
    (fb : Framebuffer) : exec i (s.setFb fb) = mapNext (·.setFb fb) (exec i s) := by
  cases i with
  | cls => exact absurd rfl hcls
  | drw x y n => exact absurd rfl (hdrw x y n)
  | call nnn => exact execCall_setFb s fb nnn
  | ret => exact execRet_setFb s fb
  | ldB x => exact s.checkRange_setFb fb s.base 3 (.next (s.storeBytes s.base (bcdDigits (s.reg x))))
  | storeRegs x => exact s.checkRange_setFb fb s.base (x + 1) (.next (s.storeBytes s.base (s.regsTo x)))
  | loadRegs x => exact s.checkRange_setFb fb s.base (x + 1) (.next (s.loadRegsFrom x s.base))
  | skp x => exact s.withKey_setFb fb x id
  | sknp x => exact s.withKey_setFb fb x not
  | seImm _ _ | sneImm _ _ | seReg _ _ | sneReg _ _ =>
    exact congrArg Host.Outcome.next (s.skipIf_setFb fb _)
  | sys _ | jp _ | jpV0 _ | ldImm _ _ | addImm _ _ | ldReg _ _ | orReg _ _ | andReg _ _ | xorReg _ _
  | addReg _ _ | subReg _ _ | shr _ | subn _ _ | shl _ | rnd _ _ | ldI _ | addI _ | ldF _ | ldVxDt _
  | ldVxK _ | ldDtVx _ | ldStVx _ => rfl

/-- What another instruction leaves from another framebuffer is what it left, with that framebuffer. -/
theorem exec_setFb_eq_next {i : Instr} (hcls : i ≠ .cls) (hdrw : ∀ x y n, i ≠ .drw x y n) {s t : State}
    (fb : Framebuffer) (h : exec i s = .next t) : exec i (s.setFb fb) = .next (t.setFb fb) := by
  rw [exec_setFb hcls hdrw, h, mapNext]

/-- Only `CLS` and `DRW` write the framebuffer: any other instruction, run from the framebuffer the state
already has, leaves that one. -/
theorem fb_eq_of_exec {i : Instr} (hcls : i ≠ .cls) (hdrw : ∀ x y n, i ≠ .drw x y n) {s t : State}
    (h : exec i s = .next t) : t.fb = s.fb := by
  have hset : exec i s = .next (t.setFb s.fb) := exec_setFb_eq_next hcls hdrw s.fb h
  have ht : t = t.setFb s.fb := Host.Outcome.next.inj (h.symm.trans hset)
  rw [ht, State.setFb_fb]

/-- Settles O56: the words are the pixels' (R24); `CLS` leaves the same state whatever the framebuffer was,
and any other instruction but `DRW` carries the framebuffer along. -/
theorem framebufferReadersAndWriters : Obligations.FramebufferReadersAndWriters := by
  unfold Obligations.FramebufferReadersAndWriters
  refine ⟨fun s r c => s.getElem_readFramebuffer r c, fun i s t h hne => ?_,
    fun i s t fb hdrw h => ?_⟩
  · by_contra hi
    obtain ⟨hcls, hdrw⟩ := not_or.mp hi
    exact hne (fb_eq_of_exec hcls (fun x y n he => hdrw ⟨x, y, n, he⟩) h)
  · by_cases hcls : i = .cls
    · subst hcls
      exact ⟨t, h, rfl⟩
    · exact ⟨t.setFb fb, exec_setFb_eq_next hcls hdrw fb h, rfl⟩

/-! ### The host's transactions (R115, R117, R123, R126) -/

/-- Settles O18: `Construct()` establishes the invariant, and each other transaction keeps it
(`State.Inv.tick`, `State.Inv.setKey`, `State.Inv.loadRom`). -/
theorem hostTransactionsKeepTheInvariant : Obligations.HostTransactionsKeepTheInvariant := by
  unfold Obligations.HostTransactionsKeepTheInvariant
  exact fun s hs => ⟨hs.tick, hs.setKey, reset_inv, hs.loadRom⟩

/-- A counter stops at 0 (R115), as subtraction on numbers does. -/
theorem toNat_tickCounter (b : Byte) : (tickCounter b).toNat = b.toNat - 1 := by
  unfold tickCounter
  split
  · bv_omega
  · bv_omega

theorem State.getElem_key_setKey (s : State) (k j : Reg) (b : Bool) :
    (s.setKey k b).key[j] = if j = k then b else s.key[j] := by
  simp only [State.setKey_key, Fin.getElem_fin, Vector.getElem_set, Fin.ext_iff, eq_comm]

/-- Settles O59: each timer is counted down (`toNat_tickCounter`), one key slot is set
(`State.getElem_key_setKey`), and each transaction is an update of those fields alone. -/
theorem tickAndSetKey : Obligations.TickAndSetKey := by
  unfold Obligations.TickAndSetKey
  exact fun s => ⟨⟨toNat_tickCounter s.dt, toNat_tickCounter s.st, rfl⟩,
    fun k b => ⟨fun j => s.getElem_key_setKey k j b, rfl⟩⟩

end Sys2Proof.Machine
end

section
/-! SUPPORT. Reset and boot (70_reset_and_hazards.md R123–R127): the content of memory after construction, what
a load leaves, and the first step with no ROM. -/

namespace Sys2Proof.Machine

/-! ### Loading a ROM (R126) -/

/-- 3584 bytes are what lies between 0x200 and the end of memory. -/
theorem State.loadRom_of_fits (s : State) {bytes : List Byte} (hfits : bytes.length ≤ 3584) :
    s.loadRom bytes = (s.storeBytes 0x200 bytes, .loaded) :=
  if_neg hfits.not_gt

theorem State.loadRom_of_too_large (s : State) {bytes : List Byte} (hlarge : 3584 < bytes.length) :
    s.loadRom bytes = (s, .romTooLarge) :=
  if_pos hlarge

/-- Settles O60: a load that fits is a store at 0x200 (`State.loadRom_of_fits`), so its bytes and its frame
are the store's. -/
theorem loadRomIsAllOrNothing : Obligations.LoadRomIsAllOrNothing := by
  unfold Obligations.LoadRomIsAllOrNothing
  refine fun s bytes => ⟨fun hfits => ?_, s.loadRom_of_too_large⟩
  rw [s.loadRom_of_fits hfits]
  refine ⟨rfl, fun k hk => ?_, fun a ha => s.byteAt_storeBytes_outside 0x200 bytes ha, rfl⟩
  rw [s.byteAt_storeBytes_add 0x200 hk, List.getD_eq_getElem bytes 0 hk, List.getElem?_eq_getElem hk]

/-! ### After construction (R123–R125) -/

theorem length_fontTable : Config.fontTable.length = 80 := rfl

/-- Outside the font memory starts at 0 (R123). -/
theorem initialByte_outside_font {a : Nat} (ha : a < 0x50 ∨ 0xA0 ≤ a) : initialByte a = 0 := by
  unfold initialByte Config.fontBase
  rcases ha with hbelow | habove
  · rw [if_neg (by omega)]
  · rw [if_pos (by omega), List.getD_eq_default]
    rw [length_fontTable]
    omega

/-- The font lies from 0x050 on, in the table's order (R124). -/
theorem initialByte_font {k : Nat} (hk : k < 80) :
    some (initialByte (0x50 + k)) = Config.fontTable[k]? := by
  have hk' : k < Config.fontTable.length := hk
  unfold initialByte Config.fontBase
  rw [if_pos (by omega), Nat.add_sub_cancel_left, List.getD_eq_getElem _ _ hk',
    List.getElem?_eq_getElem hk']

/-- Reset lists no byte, so each reads as its reset content. -/
theorem byteAt_reset (a : Nat) : State.reset.byteAt a = initialByte a := Memory.read_nil a

/-- Settles O17: `Construct()` establishes the invariant (`reset_inv`). -/
theorem resetMeetsTheInvariant : Obligations.ResetMeetsTheInvariant := reset_inv

/-- Settles O20: the fields are the literals of `State.reset`, V, the stack, the keypad and the framebuffer
in every place, and each byte is its reset content. -/
theorem resetStateIsTheSpecs : Obligations.ResetStateIsTheSpecs := by
  unfold Obligations.ResetStateIsTheSpecs
  refine fun s => ⟨rfl, fun r => ?reg, rfl, rfl, fun j => ?stack, rfl, rfl, rfl, fun k => ?key,
    Framebuffer.pixel_clear, rfl, rfl, rfl, rfl, fun a ha => ?zero, fun a ha => ?font,
    length_fontTable, rfl⟩
  case reg => exact Vector.getElem_replicate r.isLt
  case stack => exact Vector.getElem_replicate j.isLt
  case key => exact Vector.getElem_replicate k.isLt
  case zero => rw [byteAt_reset, initialByte_outside_font ha]
  case font => rw [byteAt_reset, initialByte_font ha]

/-! ### Boot with no ROM (R127) -/

/-- A step at a `SYS` word leaves the state before it with the record of `UnsupportedSys` (R71, D9). -/
theorem State.Fetches.step_sys {s : State} {w : Word} {nnn : Imm12} (hF : s.Fetches w)
    (hd : decode w = .ok (.sys nnn)) :
    step s = .next { s with fault := some ⟨.unsupportedSys, s.pc, some w⟩ } := by
  rw [hF.step_eq hd]
  exact congrArg Host.Outcome.next (State.settle_of_raise rfl)

/-- The first fetch after construction reads two bytes of zero memory. -/
theorem reset_fetches_zero : State.reset.Fetches 0x0000 := by
  refine ⟨rfl, rfl, by decide, by decide, ?_⟩
  rw [byteAt_reset, byteAt_reset, initialByte_outside_font (.inr (by decide)),
    initialByte_outside_font (.inr (by decide))]
  rfl

theorem decode_zero : decode 0x0000 = .ok (.sys 0x000) := by decide

/-- Settles O21: reset fetches the word 0 (`reset_fetches_zero`), which is a `SYS` word (`decode_zero`), and
such a step faults (`State.Fetches.step_sys`). -/
theorem bootWithoutRomFaults : Obligations.BootWithoutRomFaults := by
  unfold Obligations.BootWithoutRomFaults
  exact reset_fetches_zero.step_sys decode_zero

end Sys2Proof.Machine
end
